-- ==== Sys2Proof/Word.lean ====
section
/-! DEFINITION. Bytes and words (00_scope.md R12): a byte is an 8-bit unsigned value, a word a 32-bit value. -/

namespace Sys2Proof

/-- A byte (00_scope.md R12). -/
abbrev Byte := BitVec 8

/-- A word (00_scope.md R12; `WORD_BITS` of R10). -/
abbrev Word := BitVec 32

end Sys2Proof
end

