-- ==== Sys2Proof/Config.lean ====
section
/-! DEFINITION. The implementation parameters of 00_scope.md R10, at the values that rule gives (log 9). -/

namespace Sys2Proof.Config

/-- `MAX_PAYLOAD_LENGTH`: the largest payload a frame carries (R10; MLK's own, not a parameter). -/
def maxPayloadLength : Nat := 32

/-- `FRAME_START`: the first byte of every frame (R10). -/
def frameStart : Byte := 0xD5

/-- `CRC_SEED`: the initial CRC register value (R10). -/
def crcSeed : Byte := 0x00

/-- `CRC_POLY_REFLECTED`: the generator polynomial written LSB-first (R10, 40_crc.md R120). -/
def crcPolyReflected : Byte := 0x8C

/-- `PB_CAP`: capacity of the payload buffer PB in bytes (R10). -/
def pbCap : Nat := 255

/-- `RX_CAP`: capacity of the receive buffer RXB in bytes (R10). -/
def rxCap : Nat := 255

/-- `TX_CAP`: capacity of the transmit buffer TXB in bytes, `MAX_PAYLOAD_LENGTH + 3` (R10). -/
def txCap : Nat := 35

/-- `DB_CAP`: capacity of the decoder data buffer DB in bytes, `MAX_PAYLOAD_LENGTH` (R10). -/
def dbCap : Nat := 32

/-- `SIG_CAP`: entries in the signature memory SIG (R10). -/
def sigCap : Nat := 32

/-- `VQ_CAP`: entries in each value queue (R10). -/
def vqCap : Nat := 32

/-- `BYTES_MAX`: longest byte-string value in a value queue (R10). -/
def bytesMax : Nat := 255

end Sys2Proof.Config
end

