-- ==== Sys2Proof/Machine/Operands.lean ====
section
/-! DEFINITION. Byte order and extension of operands and field values (20_memory.md R63, R64; 00_scope.md R12). -/

namespace Sys2Proof.Machine

/-- Byte `k` of a word, byte 0 the least significant: `w[8k+7 : 8k]`. -/
def wordByte (w : Word) (k : Nat) : Byte :=
  w.extractLsb' (8 * k) 8

/-- The 2-byte field of a word, least significant byte first (20_memory.md R63, N = 2). -/
def leBytes2 (w : Word) : List Byte :=
  [wordByte w 0, wordByte w 1]

/-- The 4-byte field of a word, least significant byte first (20_memory.md R63, N = 4). -/
def leBytes4 (w : Word) : List Byte :=
  [wordByte w 0, wordByte w 1, wordByte w 2, wordByte w 3]

/-- `b1 : b0`, the 16-bit value of two bytes in little-endian order (44_field_kinds.md R223). -/
def leHalf (b0 b1 : Byte) : BitVec 16 :=
  b1 ++ b0

/-- `b3 : b2 : b1 : b0`, the word of four bytes in little-endian order (20_memory.md R64, 44_field_kinds.md R227). -/
def leWord (b0 b1 b2 b3 : Byte) : Word :=
  b3 ++ b2 ++ b1 ++ b0

/-- `zext_32` of a byte (00_scope.md R12). -/
def zext8 (b : Byte) : Word :=
  b.zeroExtend 32

/-- `zext_32` of a 16-bit value (00_scope.md R12). -/
def zext16 (h : BitVec 16) : Word :=
  h.zeroExtend 32

/-- `sext_32` of a 16-bit value (00_scope.md R12; two's complement, log 15). -/
def sext16 (h : BitVec 16) : Word :=
  h.signExtend 32

/-- The first `n` bytes of a number, least significant first: how a word of the opcode table is laid out as bytes. -/
def natBytes : Nat → Nat → List Byte
  | 0, _ => []
  | n + 1, w => BitVec.ofNat 8 w :: natBytes n (w / 256)

end Sys2Proof.Machine
end

