-- ==== Sys2Proof/Machine/State.lean ====
section
/-! DEFINITION. The state of the block: every element of 10_state.md R20, the run-local variables of R53 and R55, and
the command port. Plain data. -/

namespace Sys2Proof.Machine

/-- A byte buffer (20_memory.md R60): pairs of an index and a byte, in one canonical form: indices strictly rising,
and no entry that equals what an unlisted index reads as. -/
abbrev Memory := List Host.Cell

/-- What an index that is not listed reads as. The spec leaves the contents of a buffer at or beyond its valid length
unspecified and unobservable, and says a model may fix them to all zeros (70_reset_and_hazards.md R290, log 3). -/
def Memory.unlisted : Byte := 0x00

/-- The status with which a command completes (60_exceptions.md R260). -/
inductive Status where
  | ok
  | invalidHeader
  | payloadTooLarge
  | checksumMismatch
  | decoderHalted
  | decoderFull
  | notReady
  | txBusy
  | txEmpty
  | bufferFull
  | badOperand
  | badCommand
  | unknownFieldKind
  | malformedSignature
  | feHalted
  | valueCountMismatch
  | valueKindMismatch
  | blobLengthMismatch
  | shortBuffer
  | vqFull
  | vqEmpty
  | sigFull
deriving DecidableEq, Repr

/-- DSTATE, the decoder's state (10_state.md R25). Encodings 6 and 7 are never held, so they are not represented. -/
inductive DecState where
  | waitHeader
  | waitLength
  | waitData
  | waitCrc
  | ready
  | error
deriving DecidableEq, Repr

/-- DERR, the framing error that put the decoder in ERROR (10_state.md R26). -/
inductive DecErr where
  | none
  | invalidHeader
  | payloadTooLarge
  | checksumMismatch
deriving DecidableEq, Repr

/-- FE_STATE (10_state.md R44). -/
inductive FeState where
  | idle
  | fatal
deriving DecidableEq, Repr

/-- A value of a value queue (10_state.md R40). -/
inductive Value where
  | word (w : Word)
  | bytes (bs : List Byte)
deriving DecidableEq, Repr

/-- The result of a command that completes with OK (30_encoding.md R86). -/
inductive Result where
  | none
  | byte (b : Byte)
  | word (w : Word)
  | value (v : Value)
deriving DecidableEq, Repr

/-- A response: a status and, on OK, a result (30_encoding.md R86). -/
structure Response where
  status : Status
  result : Result
deriving DecidableEq, Repr

/-- Whether a run is a PACK or an UNPACK (43_field_engine.md R201). -/
inductive RunMode where
  | pack
  | unpack
deriving DecidableEq, Repr

/-- The run-local variables of a PACK or UNPACK (10_state.md R53, R55; 43_field_engine.md R205, R206): the field index
`i`, the bytes packed so far `out`, the cursor `cur` in RXB, the working copy `last` of LAST_U8, and the values
unpacked so far `res`. -/
structure Run where
  mode : RunMode
  idx : Nat
  out : List Byte
  cur : Nat
  last : Byte
  res : List Value
deriving DecidableEq, Repr

/-- The state of the block. -/
structure State where
  /-- CRC (R21). -/
  crc : Byte
  /-- PB, the payload buffer, 255 entries (R22). -/
  pb : Memory
  /-- PLEN (R22). -/
  plen : Byte
  /-- TXB, the transmit buffer, 35 entries (R23). -/
  txb : Memory
  /-- TXLEN (R23). -/
  txlen : Byte
  /-- TXPOS (R23). -/
  txpos : Byte
  /-- DSTATE (R25). -/
  dstate : DecState
  /-- DERR (R26). -/
  derr : DecErr
  /-- DEXP (R27). -/
  dexp : Byte
  /-- DCNT (R28). -/
  dcnt : Byte
  /-- DCRC (R29). -/
  dcrc : Byte
  /-- DB, the decoder's payload buffer, 32 entries (R30). -/
  db : Memory
  /-- RXB, the receive buffer, 255 entries (R32). -/
  rxb : Memory
  /-- RXLEN (R32). -/
  rxlen : Byte
  /-- SIG, the signature memory, 32 entries (R41). -/
  sig : Memory
  /-- SIGLEN, 6 bits (R41). -/
  siglen : BitVec 6
  /-- VQI, the input value queue, head first (R42). -/
  vqi : List Value
  /-- VQO, the output value queue, head first (R43). -/
  vqo : List Value
  /-- FE_STATE (R44). -/
  feState : FeState
  /-- FE_ERR (R45). -/
  feErr : Status
  /-- FE_ERRIDX, 6 bits (R46). -/
  feErrIdx : BitVec 6
  /-- FE_CUR (R47). -/
  feCur : Byte
  /-- LAST_U8 (R48). -/
  lastU8 : Byte
  /-- The run-local variables, while a run is in progress (R53, R55, log 6). -/
  run : Option Run
  /-- The model's own: the command bytes delivered and not yet executed (parameter BUS_BINDING, log 1). -/
  inp : List Byte
  /-- The model's own: the responses returned so far, oldest first (log 2). -/
  out : List Response
deriving DecidableEq, Repr

/-- Why the machine stops. No state that the invariant of Safety.lean allows can fault. -/
inductive Fault where
  /-- Raised by TX.POP, DEC.FEED, DEC.TAKE, SIG.APP, PACK, UNPACK and the field kinds' run, when they would access an
  entry at or past a buffer's capacity (20_memory.md R60 gives no such entry). Only states outside 10_state.md R20's
  legal values get there. Safe (log 10). -/
  | noSuchEntry
  /-- Raised by a field kind in a PACK run that has no input value for its field; 43_field_engine.md R203 lets no run
  start so. Safe (log 12). -/
  | noInputValue
deriving DecidableEq, Repr

/-- Why the model refuses an instruction. -/
inductive Refusal where
  /-- Raised by an arm of exec whose instruction has no meaning in the model yet; no arm is so. Safe. -/
  | notModelled (mnemonic : String)
  /-- Raised by the meaning of a field kind executed while no run is in progress: field kinds are executed by runs
  only (43_field_engine.md R201, R204), and `step` never does it. Safe (log 7). -/
  | fieldKindOutsideRun
deriving DecidableEq, Repr

/-- The state after reset and power-on (70_reset_and_hazards.md R290, R291; 10_state.md R20). The buffers list nothing
(log 3), no run is in progress, and the command port is empty (log 1, log 2). -/
def State.reset : State where
  crc := 0x00
  pb := []
  plen := 0
  txb := []
  txlen := 0
  txpos := 0
  dstate := .waitHeader
  derr := .none
  dexp := 0
  dcnt := 0
  dcrc := 0x00
  db := []
  rxb := []
  rxlen := 0
  sig := []
  siglen := 0
  vqi := []
  vqo := []
  feState := .idle
  feErr := .ok
  feErrIdx := 0
  feCur := 0
  lastU8 := 0x00
  run := none
  inp := []
  out := []

end Sys2Proof.Machine
end

