-- ==== Sys2Proof/Machine/Ops.lean ====
section
/-! DEFINITION. The shared operations: byte buffers, completing a command with a result or a status, the unit resets,
the halted gate, and the begin, end and abandonment of a run. -/

namespace Sys2Proof.Machine

/-! ## Byte buffers (20_memory.md R60, R62) -/

/-- Read entry `i` of a buffer. -/
def Memory.read : Memory → Nat → Byte
  | [], _ => Memory.unlisted
  | (a, b) :: m, i => if a = i then b else Memory.read m i

/-- Take entry `i` out of the list. -/
def Memory.erase : Memory → Nat → Memory
  | [], _ => []
  | (a, c) :: m, i => if a = i then Memory.erase m i else (a, c) :: Memory.erase m i

/-- Put an entry in its place, before the first larger index. -/
def Memory.insertCell : Memory → Nat → Byte → Memory
  | [], i, b => [(i, b)]
  | (a, c) :: m, i, b => if i < a then (i, b) :: (a, c) :: m else (a, c) :: Memory.insertCell m i b

/-- Write entry `i` of a buffer, keeping the canonical form: a byte that equals what an unlisted index reads as is not
listed. -/
def Memory.write (m : Memory) (i : Nat) (b : Byte) : Memory :=
  if b = Memory.unlisted then Memory.erase m i else Memory.insertCell (Memory.erase m i) i b

/-- `MemWrite(Buf, i, n, bs)`: write a byte list at index `i` (00_scope.md R13). -/
def Memory.writeList : Memory → Nat → List Byte → Memory
  | m, _, [] => m
  | m, i, b :: bs => Memory.writeList (Memory.write m i b) (i + 1) bs

/-- `Buf[0..n)`: the first `n` entries of a buffer (00_scope.md R13). -/
def Memory.slice (m : Memory) (n : Nat) : List Byte :=
  (List.range n).map (Memory.read m)

/-- The canonical form from index `lo` up, for a buffer of `cap` entries. -/
def Memory.wfFrom (cap : Nat) : Nat → Memory → Bool
  | _, [] => true
  | lo, (a, b) :: m => decide (lo ≤ a) && decide (a < cap) && (b != Memory.unlisted) && Memory.wfFrom cap (a + 1) m

/-- The canonical form of a buffer of `cap` entries: indices strictly rising and below `cap`, no entry equal to what
an unlisted index reads as. -/
def Memory.wf (cap : Nat) (m : Memory) : Bool :=
  Memory.wfFrom cap 0 m

/-- The payload PB[0..PLEN) (10_state.md R22). -/
def State.payload (s : State) : List Byte :=
  s.pb.slice s.plen.toNat

/-- The last frame encoded, TXB[0..TXLEN) (10_state.md R23). -/
def State.frame (s : State) : List Byte :=
  s.txb.slice s.txlen.toNat

/-- The payload bytes received so far, DB[0..DCNT) (10_state.md R30). -/
def State.decoded (s : State) : List Byte :=
  s.db.slice s.dcnt.toNat

/-- The received payload RXB[0..RXLEN) (10_state.md R32). -/
def State.received (s : State) : List Byte :=
  s.rxb.slice s.rxlen.toNat

/-- The signature SIG[0..SIGLEN) (10_state.md R41). -/
def State.signature (s : State) : List Byte :=
  s.sig.slice s.siglen.toNat

/-! ## Completing a command (30_encoding.md R80, R86; 00_scope.md R13) -/

/-- Return a response to the host. -/
def State.respond (s : State) (st : Status) (r : Result) : State :=
  { s with out := s.out ++ [{ status := st, result := r }] }

/-- A command that ends without `raise` or `respond`: OK and no result (00_scope.md R13). -/
def State.complete (s : State) : Host.Outcome State Fault Refusal :=
  .next (s.respond .ok .none)

/-- `respond(v)`: OK and a result (00_scope.md R13). -/
def State.answer (s : State) (r : Result) : Host.Outcome State Fault Refusal :=
  .next (s.respond .ok r)

/-- `raise S`: the command completes with status S and no result (00_scope.md R13). This is the block's whole
exception mechanism: there is no trap entry (60_exceptions.md R274), and an error is left by ordinary commands
(R275). What else an error writes, the command's rule writes before it raises (R262). -/
def State.raise (s : State) (st : Status) : Host.Outcome State Fault Refusal :=
  .next (s.respond st .none)

/-- An unassigned command code: one byte, BadCommand, no state change (30_encoding.md R89). -/
def badCommand (s : State) : Host.Outcome State Fault Refusal :=
  s.raise .badCommand

/-- No whole command has arrived: the block waits and no state changes (60_exceptions.md R276, log 5). -/
def waitForHost (s : State) : Host.Outcome State Fault Refusal :=
  .next s

/-- The value bytes of a value result (30_encoding.md R87). -/
def Value.resultBytes : Value → List Byte
  | .word w => 0x00 :: leBytes4 w
  | .bytes bs => 0x01 :: BitVec.ofNat 8 bs.length :: bs

/-- The result bytes that follow the status byte (30_encoding.md R86). -/
def Result.toBytes : Result → List Byte
  | .none => []
  | .byte b => [b]
  | .word w => leBytes4 w
  | .value v => v.resultBytes

/-! ## Unit resets (70_reset_and_hazards.md R292) -/

/-- The decoder registers at their reset values (42_frame_decoder.md R167, R168). DB's bytes stay. -/
def State.resetDecoder (s : State) : State :=
  { s with dstate := .waitHeader, derr := .none, dexp := 0, dcnt := 0, dcrc := 0x00 }

/-- The field engine at its reset values (43_field_engine.md R190). SIG's bytes stay. A run in progress, which no command
meets, is dropped (log 11). -/
def State.resetFieldEngine (s : State) : State :=
  { s with siglen := 0, vqi := [], vqo := [], feState := .idle, feErr := .ok, feErrIdx := 0, feCur := 0,
           lastU8 := 0x00, run := none }

/-- The whole block at its reset values (70_reset_and_hazards.md R290). The buffers' contents are unspecified after a
RESET; they take the values they have after power-on (log 4). The command port is not block state (log 1, log 2). -/
def State.resetBlock (s : State) : State :=
  { State.reset with inp := s.inp, out := s.out }

/-! ## The field engine's shared operations -/

/-- The halted gate (43_field_engine.md R200): while the engine is halted, FeHalted and no state change. -/
def feGate (s : State) (body : Host.Outcome State Fault Refusal) : Host.Outcome State Fault Refusal :=
  if s.feState = .fatal then s.raise .feHalted else body

/-- The run-local variables at the start of a run (43_field_engine.md R205, R206; 10_state.md R53). -/
def Run.start (mode : RunMode) : Run :=
  { mode := mode, idx := 0, out := [], cur := 0, last := 0x00, res := [] }

/-- A run begins. -/
def State.beginRun (s : State) (mode : RunMode) : State :=
  { s with run := some (Run.start mode) }

/-- A fatal error at signature index `i`: the engine halts (43_field_engine.md R202, 60_exceptions.md R272). -/
def haltEngine (e : Status) (i : Nat) (s : State) : Host.Outcome State Fault Refusal :=
  State.raise { s with feState := .fatal, feErr := e, feErrIdx := BitVec.ofNat 6 i, run := none } e

/-- A PACK fails at index `i`: nothing is committed but FE_ERR and FE_ERRIDX (43_field_engine.md R203, R205, R207). -/
def abandonPack (e : Status) (i : Nat) (s : State) : Host.Outcome State Fault Refusal :=
  State.raise { s with feErr := e, feErrIdx := BitVec.ofNat 6 i, run := none } e

/-- An UNPACK fails at index `i`: VQO is emptied, and FE_ERR and FE_ERRIDX are written (43_field_engine.md R206,
R207). -/
def abandonUnpack (e : Status) (i : Nat) (s : State) : Host.Outcome State Fault Refusal :=
  State.raise { s with vqo := [], feErr := e, feErrIdx := BitVec.ofNat 6 i, run := none } e

/-- A PACK run ends well: its bytes go to PB at PLEN, and the engine's registers are committed (43_field_engine.md
R205). -/
def commitPack (r : Run) (s : State) : Host.Outcome State Fault Refusal :=
  if Config.pbCap < s.plen.toNat + r.out.length then .fault .noSuchEntry
  else State.complete { s with
    pb := s.pb.writeList s.plen.toNat r.out
    plen := BitVec.ofNat 8 (s.plen.toNat + r.out.length)
    vqi := []
    lastU8 := r.last
    feCur := BitVec.ofNat 8 r.out.length
    feErr := .ok
    feErrIdx := s.siglen
    run := none }

/-- An UNPACK run ends well: its values replace VQO, and the engine's registers are committed (43_field_engine.md
R206). -/
def commitUnpack (r : Run) (s : State) : Host.Outcome State Fault Refusal :=
  State.complete { s with
    vqo := r.res
    lastU8 := r.last
    feCur := BitVec.ofNat 8 r.cur
    feErr := .ok
    feErrIdx := s.siglen
    run := none }

/-- A run that has processed every field commits its results (43_field_engine.md R201). -/
def commitRun (r : Run) (s : State) : Host.Outcome State Fault Refusal :=
  match r.mode with
  | .pack => commitPack r s
  | .unpack => commitUnpack r s

/-- A field kind's pack step: the value and `last` give the bytes and the next `last`, or a failure
(44_field_kinds.md, step signatures). -/
abbrev PackStep := Value → Byte → Except Status (List Byte × Byte)

/-- A field kind's unpack step: the bytes RXB[0..RXLEN), the cursor and `last` give the value, the next cursor and the
next `last`, or a failure (44_field_kinds.md, step signatures). -/
abbrev UnpackStep := List Byte → Nat → Byte → Except Status (Value × Nat × Byte)

/-- One field of a PACK run: the pack step, then the room check (43_field_engine.md R205, 60_exceptions.md R268). -/
def Run.packNext (plen : Nat) (p : PackStep) (v : Value) (r : Run) : Except Status Run :=
  match p v r.last with
  | .error e => .error e
  | .ok (bs, last') =>
    if Config.pbCap < plen + r.out.length + bs.length then .error .bufferFull
    else .ok { r with idx := r.idx + 1, out := r.out ++ bs, last := last' }

/-- One field of an UNPACK run (43_field_engine.md R206). -/
def Run.unpackNext (rx : List Byte) (u : UnpackStep) (r : Run) : Except Status Run :=
  match u rx r.cur r.last with
  | .error e => .error e
  | .ok (v, cur', last') => .ok { r with idx := r.idx + 1, cur := cur', last := last', res := r.res ++ [v] }

/-- What a field kind does in the run in progress: in a PACK run field `idx` takes VQI[idx]; a failing field abandons
the run (43_field_engine.md R204 to R207). Outside a run there is no such operation (log 7). -/
def fieldStep (p : PackStep) (u : UnpackStep) (s : State) : Host.Outcome State Fault Refusal :=
  match s.run with
  | none => .refused .fieldKindOutsideRun
  | some r =>
    match r.mode with
    | .pack =>
      match s.vqi[r.idx]? with
      | none => .fault .noInputValue
      | some v =>
        match r.packNext s.plen.toNat p v with
        | .ok r' => .next { s with run := some r' }
        | .error e => abandonPack e r.idx s
    | .unpack =>
      match r.unpackNext s.received u with
      | .ok r' => .next { s with run := some r' }
      | .error e => abandonUnpack e r.idx s

end Sys2Proof.Machine
end

