-- ==== Sys2Proof/Machine/Flags.lean ====
section
/-! DEFINITION. The block has no condition codes (10_state.md R54). This file holds what takes their place: the numeric
codes of the status and state registers, the computed STATUS word (R49), and the register map of REG.RD (R50). -/

namespace Sys2Proof.Machine

/-- The status byte (60_exceptions.md R260). -/
def Status.code : Status → Byte
  | .ok => 0x00
  | .invalidHeader => 0x01
  | .payloadTooLarge => 0x02
  | .checksumMismatch => 0x03
  | .decoderHalted => 0x04
  | .decoderFull => 0x05
  | .notReady => 0x06
  | .txBusy => 0x07
  | .txEmpty => 0x08
  | .bufferFull => 0x09
  | .badOperand => 0x0A
  | .badCommand => 0x0B
  | .unknownFieldKind => 0x10
  | .malformedSignature => 0x11
  | .feHalted => 0x12
  | .valueCountMismatch => 0x13
  | .valueKindMismatch => 0x14
  | .blobLengthMismatch => 0x15
  | .shortBuffer => 0x16
  | .vqFull => 0x17
  | .vqEmpty => 0x18
  | .sigFull => 0x19

/-- The encoding of DSTATE (10_state.md R25). -/
def DecState.code : DecState → Byte
  | .waitHeader => 0
  | .waitLength => 1
  | .waitData => 2
  | .waitCrc => 3
  | .ready => 4
  | .error => 5

/-- The encoding of DERR (10_state.md R26). -/
def DecErr.code : DecErr → Byte
  | .none => 0
  | .invalidHeader => 1
  | .payloadTooLarge => 2
  | .checksumMismatch => 3

/-- The encoding of FE_STATE (10_state.md R44). -/
def FeState.code : FeState → Byte
  | .idle => 0
  | .fatal => 1

/-- STATUS.TXP: a frame is pending (10_state.md R49, R23). -/
def State.txPending (s : State) : Bool :=
  decide (s.txpos.toNat < s.txlen.toNat)

/-- A one-bit flag at bit `n` of a word. -/
def flagAt (b : Bool) (n : Nat) : Word :=
  if b then (1 : Word) <<< n else 0

/-- STATUS, computed when it is read (10_state.md R49): bit 0 TXP, bit 1 DRDY, bit 2 DERRF, bit 3 FEF, bit 4 VQO_NE,
bits 31:5 zero. -/
def State.statusWord (s : State) : Word :=
  flagAt s.txPending 0 ||| flagAt (s.dstate == .ready) 1 ||| flagAt (s.dstate == .error) 2
    ||| flagAt (s.feState == .fatal) 3 ||| flagAt (!s.vqo.isEmpty) 4

/-- The register numbered `r`, zero-extended to a word (10_state.md R50); none for a number that names no register. -/
def State.register (s : State) (r : Byte) : Option Word :=
  match r.toNat with
  | 0x00 => some (zext8 s.crc)
  | 0x01 => some (zext8 s.plen)
  | 0x02 => some (zext8 s.txlen)
  | 0x03 => some (zext8 s.txpos)
  | 0x04 => some (zext8 s.dstate.code)
  | 0x05 => some (zext8 s.derr.code)
  | 0x06 => some (zext8 s.dexp)
  | 0x07 => some (zext8 s.dcnt)
  | 0x08 => some (zext8 s.dcrc)
  | 0x09 => some (zext8 s.rxlen)
  | 0x0A => some (s.siglen.zeroExtend 32)
  | 0x0B => some (BitVec.ofNat 32 s.vqi.length)
  | 0x0C => some (BitVec.ofNat 32 s.vqo.length)
  | 0x0D => some (zext8 s.feState.code)
  | 0x0E => some (zext8 s.feErr.code)
  | 0x0F => some (s.feErrIdx.zeroExtend 32)
  | 0x10 => some (zext8 s.feCur)
  | 0x11 => some (zext8 s.lastU8)
  | 0x12 => some s.statusWord
  | _ => none

/-- A response as bytes: the status byte, then the result bytes (30_encoding.md R86). -/
def Response.toBytes (r : Response) : List Byte :=
  r.status.code :: r.result.toBytes

end Sys2Proof.Machine
end

