-- ==== Sys2Proof/Machine/Block.lean ====
section
/-! DEFINITION. The block control commands (45_block_control.md). -/

namespace Sys2Proof.Machine

/-- NOP (45_block_control.md R250). -/
def execNop (s : State) : Host.Outcome State Fault Refusal :=
  s.complete

/-- RESET (45_block_control.md R251). -/
def execReset (s : State) : Host.Outcome State Fault Refusal :=
  State.complete s.resetBlock

/-- REG.RD (45_block_control.md R252). -/
def execRegRd (r : Byte) (s : State) : Host.Outcome State Fault Refusal :=
  match s.register r with
  | some w => s.answer (.word w)
  | none => s.raise .badOperand

end Sys2Proof.Machine
end

