-- ==== Sys2Proof/Machine/Crc.lean ====
section
/-! DEFINITION. The CRC-8 function and the CRC unit's commands (40_crc.md). -/

namespace Sys2Proof.Machine

/-- One shift of the CRC register: right by one, and the polynomial folded in if bit 0 was 1 (40_crc.md R122;
the form is the spec's own general-knowledge passage I1, log 14). -/
def crcShift (c : Byte) : Byte :=
  (c >>> 1) ^^^ (if c.getLsbD 0 then Config.crcPolyReflected else 0x00)

/-- Entry `i` of the CRC-8 table T: eight shifts of `i` (40_crc.md R122). -/
def crcTable (i : Byte) : Byte :=
  crcShift (crcShift (crcShift (crcShift (crcShift (crcShift (crcShift (crcShift i)))))))

/-- The update by one byte: `T[c xor b]` (40_crc.md R121). -/
def crcUpdate (c b : Byte) : Byte :=
  crcTable (c ^^^ b)

/-- The checksum of a byte list (40_crc.md R121). -/
def crc8 (bs : List Byte) : Byte :=
  bs.foldl crcUpdate Config.crcSeed

/-- CRC.CLR (40_crc.md R126). -/
def execCrcClr (s : State) : Host.Outcome State Fault Refusal :=
  State.complete { s with crc := 0x00 }

/-- CRC.UPD (40_crc.md R127). -/
def execCrcUpd (b : Byte) (s : State) : Host.Outcome State Fault Refusal :=
  State.complete { s with crc := crcUpdate s.crc b }

/-- CRC.RD (40_crc.md R128). -/
def execCrcRd (s : State) : Host.Outcome State Fault Refusal :=
  s.answer (.byte s.crc)

end Sys2Proof.Machine
end

