-- ==== Sys2Proof/Machine/Decoder.lean ====
section
/-! DEFINITION. The frame decoder and the receive buffer (42_frame_decoder.md). -/

namespace Sys2Proof.Machine

/-- A framing error: the decoder enters ERROR with its cause in DERR, and the command reports it (42_frame_decoder.md
R161, R162, R164; 60_exceptions.md R271). -/
def framingError (d : DecErr) (e : Status) (s : State) : Host.Outcome State Fault Refusal :=
  State.raise { s with dstate := .error, derr := d } e

/-- DEC.FEED in WAIT_HEADER (42_frame_decoder.md R161). -/
def feedWaitHeader (b : Byte) (s : State) : Host.Outcome State Fault Refusal :=
  if b = Config.frameStart then State.complete { s with dstate := .waitLength }
  else framingError .invalidHeader .invalidHeader s

/-- DEC.FEED in WAIT_LENGTH (42_frame_decoder.md R162). -/
def feedWaitLength (b : Byte) (s : State) : Host.Outcome State Fault Refusal :=
  if Config.maxPayloadLength < b.toNat then framingError .payloadTooLarge .payloadTooLarge s
  else State.complete { s with
    dexp := b, dcnt := 0, dcrc := 0x00, dstate := if b = 0 then .waitCrc else .waitData }

/-- DEC.FEED in WAIT_DATA (42_frame_decoder.md R163). -/
def feedWaitData (b : Byte) (s : State) : Host.Outcome State Fault Refusal :=
  if Config.dbCap ≤ s.dcnt.toNat then .fault .noSuchEntry
  else State.complete { s with
    db := s.db.write s.dcnt.toNat b
    dcnt := s.dcnt + 1
    dcrc := crcUpdate s.dcrc b
    dstate := if s.dcnt + 1 = s.dexp then .waitCrc else .waitData }

/-- DEC.FEED in WAIT_CRC (42_frame_decoder.md R164). -/
def feedWaitCrc (b : Byte) (s : State) : Host.Outcome State Fault Refusal :=
  if b = s.dcrc then State.complete { s with dstate := .ready }
  else framingError .checksumMismatch .checksumMismatch s

/-- DEC.FEED (42_frame_decoder.md R160): dispatch on DSTATE; READY refuses the byte with DecoderFull (R165), ERROR with
DecoderHalted (R166). -/
def execDecFeed (b : Byte) (s : State) : Host.Outcome State Fault Refusal :=
  match s.dstate with
  | .waitHeader => feedWaitHeader b s
  | .waitLength => feedWaitLength b s
  | .waitData => feedWaitData b s
  | .waitCrc => feedWaitCrc b s
  | .ready => s.raise .decoderFull
  | .error => s.raise .decoderHalted

/-- DEC.TAKE (42_frame_decoder.md R167). -/
def execDecTake (s : State) : Host.Outcome State Fault Refusal :=
  if s.dstate = .ready then
    if Config.dbCap < s.dexp.toNat then .fault .noSuchEntry
    else State.complete (State.resetDecoder { s with
      rxb := s.rxb.writeList 0 (s.db.slice s.dexp.toNat), rxlen := s.dexp })
  else s.raise .notReady

/-- DEC.RST (42_frame_decoder.md R168). -/
def execDecRst (s : State) : Host.Outcome State Fault Refusal :=
  State.complete s.resetDecoder

/-- RX.CLR (42_frame_decoder.md R170). -/
def execRxClr (s : State) : Host.Outcome State Fault Refusal :=
  State.complete { s with rxlen := 0 }

/-- RX.APP (42_frame_decoder.md R171). -/
def execRxApp (b : Byte) (s : State) : Host.Outcome State Fault Refusal :=
  if s.rxlen.toNat = Config.rxCap then s.raise .bufferFull
  else State.complete { s with rxb := s.rxb.write s.rxlen.toNat b, rxlen := s.rxlen + 1 }

/-- RX.RD (42_frame_decoder.md R172). -/
def execRxRd (i : Byte) (s : State) : Host.Outcome State Fault Refusal :=
  if s.rxlen.toNat ≤ i.toNat then s.raise .badOperand
  else s.answer (.byte (s.rxb.read i.toNat))

end Sys2Proof.Machine
end

