-- ==== Sys2Proof/Machine/Encoder.lean ====
section
/-! DEFINITION. The frame encoder: payload buffer, encode function, transmit buffer (41_frame_encoder.md). -/

namespace Sys2Proof.Machine

/-- The bytes of the frame of a payload: start byte, length, payload, checksum (41_frame_encoder.md R143, R144). -/
def frameOf (p : List Byte) : List Byte :=
  Config.frameStart :: BitVec.ofNat 8 p.length :: p ++ [crc8 p]

/-- PB.CLR (41_frame_encoder.md R140). -/
def execPbClr (s : State) : Host.Outcome State Fault Refusal :=
  State.complete { s with plen := 0 }

/-- PB.APP (41_frame_encoder.md R141). -/
def execPbApp (b : Byte) (s : State) : Host.Outcome State Fault Refusal :=
  if s.plen.toNat = Config.pbCap then s.raise .bufferFull
  else State.complete { s with pb := s.pb.write s.plen.toNat b, plen := s.plen + 1 }

/-- PB.RD (41_frame_encoder.md R142). -/
def execPbRd (i : Byte) (s : State) : Host.Outcome State Fault Refusal :=
  if s.plen.toNat ≤ i.toNat then s.raise .badOperand
  else s.answer (.byte (s.pb.read i.toNat))

/-- ENC.FRAME (41_frame_encoder.md R145; TxBusy before PayloadTooLarge, 60_exceptions.md R266). -/
def execEncFrame (s : State) : Host.Outcome State Fault Refusal :=
  if s.txPending then s.raise .txBusy
  else if Config.maxPayloadLength < s.plen.toNat then s.raise .payloadTooLarge
  else State.complete { s with txb := s.txb.writeList 0 (frameOf s.payload), txlen := s.plen + 3, txpos := 0 }

/-- TX.POP (41_frame_encoder.md R146). -/
def execTxPop (s : State) : Host.Outcome State Fault Refusal :=
  if s.txpos = s.txlen then s.raise .txEmpty
  else if Config.txCap ≤ s.txpos.toNat then .fault .noSuchEntry
  else State.answer { s with txpos := s.txpos + 1 } (.byte (s.txb.read s.txpos.toNat))

end Sys2Proof.Machine
end

