-- ==== Sys2Proof/Syntax.lean ====
section
/-! DEFINITION. The instructions: one constructor per row of spec/opcode_table.json, that is the 26 commands of
30_encoding.md R88 and the 8 field kinds (microinstructions of the field engine) of 30_encoding.md R90. -/

namespace Sys2Proof

/-- An instruction. Commands come from the host's command stream; field kinds stand in SIG and are executed by the
run that PACK or UNPACK starts (43_field_engine.md R204). -/
inductive Instr where
  -- block control (45_block_control.md)
  | nop
  | reset
  | regRd (r : Byte)
  -- CRC unit (40_crc.md)
  | crcClr
  | crcUpd (b : Byte)
  | crcRd
  -- frame encoder (41_frame_encoder.md)
  | pbClr
  | pbApp (b : Byte)
  | pbRd (i : Byte)
  | encFrame
  | txPop
  -- frame decoder and receive buffer (42_frame_decoder.md)
  | decRst
  | decFeed (b : Byte)
  | decTake
  | rxClr
  | rxApp (b : Byte)
  | rxRd (i : Byte)
  -- field engine (43_field_engine.md)
  | feRst
  | sigClr
  | sigApp (k : Byte)
  | vqPushw (w : Word)
  | vqPushb (bs : List Byte)
  | vqiClr
  | pack
  | unpack
  | vqPop
  -- field kinds (44_field_kinds.md)
  | u8
  | i16
  | u16
  | i32
  | u32
  | f32
  | cstr
  | blob
deriving DecidableEq, Repr

end Sys2Proof
end

