-- ==== Sys2Proof/WellFormed.lean ====
section
/-! DEFINITION. Which instructions are well formed. Every operand but one is bounded by its type. A register number,
an index or a field-kind code outside the legal range is not ill formed: the spec gives such a command a status. -/

namespace Sys2Proof

/-- A field kind (30_encoding.md R90), as against a command (R88). -/
def Instr.isFieldKind : Instr → Bool
  | .u8 | .i16 | .u16 | .i32 | .u32 | .f32 | .cstr | .blob => true
  | .nop | .reset | .regRd _ | .crcClr | .crcUpd _ | .crcRd | .pbClr | .pbApp _ | .pbRd _ | .encFrame | .txPop
  | .decRst | .decFeed _ | .decTake | .rxClr | .rxApp _ | .rxRd _ | .feRst | .sigClr | .sigApp _ | .vqPushw _
  | .vqPushb _ | .vqiClr | .pack | .unpack | .vqPop => false

/-- The operand check: format S carries at most 255 bytes, since its length is one byte (30_encoding.md R83). -/
def Instr.wellFormed : Instr → Bool
  | .vqPushb bs => decide (bs.length ≤ Config.bytesMax)
  | .nop | .reset | .regRd _ | .crcClr | .crcUpd _ | .crcRd | .pbClr | .pbApp _ | .pbRd _ | .encFrame | .txPop
  | .decRst | .decFeed _ | .decTake | .rxClr | .rxApp _ | .rxRd _ | .feRst | .sigClr | .sigApp _ | .vqPushw _
  | .vqiClr | .pack | .unpack | .vqPop | .u8 | .i16 | .u16 | .i32 | .u32 | .f32 | .cstr | .blob => true

/-- A well-formed instruction of the command stream. -/
def Instr.isCommand (i : Instr) : Bool :=
  i.wellFormed && !i.isFieldKind

end Sys2Proof
end

