-- ==== Sys2Proof/Decode.lean ====
section
/-! DEFINITION. The two decoders and the encoder, from 30_encoding.md. `decode` reads the host's command stream
(R80 to R89); `decodeKind` reads a SIG entry (R90, R91). The two code maps overlap, and which one applies is given by
where the byte stands (log 8). -/

namespace Sys2Proof

open Machine

/-- What the front of a command stream is. -/
inductive Decoded where
  /-- A whole command, and the bytes after it. -/
  | command (i : Instr) (rest : List Byte)
  /-- An unassigned code, a one-byte command (30_encoding.md R89), and the bytes after it. -/
  | unassigned (code : Byte) (rest : List Byte)
  /-- No whole command has arrived yet (60_exceptions.md R276). -/
  | incomplete
deriving DecidableEq, Repr

/-- The operand of format B: one byte (30_encoding.md R84). -/
def operandByte (f : Byte → Instr) : List Byte → Decoded
  | b :: rest => .command (f b) rest
  | [] => .incomplete

/-- The operand of format W: a word, least significant byte first (30_encoding.md R82). -/
def operandWord (f : Word → Instr) : List Byte → Decoded
  | w0 :: w1 :: w2 :: w3 :: rest => .command (f (leWord w0 w1 w2 w3)) rest
  | _ => .incomplete

/-- The operand of format S: a length byte and that many bytes (30_encoding.md R83). -/
def operandString (f : List Byte → Instr) : List Byte → Decoded
  | n :: rest =>
    if n.toNat ≤ rest.length then .command (f (rest.take n.toNat)) (rest.drop n.toNat) else .incomplete
  | [] => .incomplete

/-- Read the first command of a command stream (30_encoding.md R85, R88, R89). -/
def decode : List Byte → Decoded
  | [] => .incomplete
  | c :: rest =>
    match c.toNat with
    | 0x00 => .command .nop rest
    | 0x01 => .command .reset rest
    | 0x02 => operandByte .regRd rest
    | 0x10 => .command .crcClr rest
    | 0x11 => operandByte .crcUpd rest
    | 0x12 => .command .crcRd rest
    | 0x20 => .command .pbClr rest
    | 0x21 => operandByte .pbApp rest
    | 0x22 => operandByte .pbRd rest
    | 0x23 => .command .encFrame rest
    | 0x24 => .command .txPop rest
    | 0x30 => .command .decRst rest
    | 0x31 => operandByte .decFeed rest
    | 0x32 => .command .decTake rest
    | 0x38 => .command .rxClr rest
    | 0x39 => operandByte .rxApp rest
    | 0x3A => operandByte .rxRd rest
    | 0x40 => .command .feRst rest
    | 0x41 => .command .sigClr rest
    | 0x42 => operandByte .sigApp rest
    | 0x43 => operandWord .vqPushw rest
    | 0x44 => operandString .vqPushb rest
    | 0x45 => .command .vqiClr rest
    | 0x46 => .command .pack rest
    | 0x47 => .command .unpack rest
    | 0x48 => .command .vqPop rest
    | _ => .unassigned c rest

/-- Read a SIG entry: the field kind of a code 0x00..0x07 (30_encoding.md R90), none for an unrecognized tag (R91). -/
def decodeKind (k : Byte) : Option Instr :=
  match k.toNat with
  | 0x00 => some .u8
  | 0x01 => some .i16
  | 0x02 => some .u16
  | 0x03 => some .i32
  | 0x04 => some .u32
  | 0x05 => some .f32
  | 0x06 => some .cstr
  | 0x07 => some .blob
  | _ => none

/-- The bytes of an instruction: those the host sends for a command (30_encoding.md R81 to R84, R88), the one SIG byte
of a field kind (R90). -/
def encode : Instr → List Byte
  | .nop => [0x00]
  | .reset => [0x01]
  | .regRd r => [0x02, r]
  | .crcClr => [0x10]
  | .crcUpd b => [0x11, b]
  | .crcRd => [0x12]
  | .pbClr => [0x20]
  | .pbApp b => [0x21, b]
  | .pbRd i => [0x22, i]
  | .encFrame => [0x23]
  | .txPop => [0x24]
  | .decRst => [0x30]
  | .decFeed b => [0x31, b]
  | .decTake => [0x32]
  | .rxClr => [0x38]
  | .rxApp b => [0x39, b]
  | .rxRd i => [0x3A, i]
  | .feRst => [0x40]
  | .sigClr => [0x41]
  | .sigApp k => [0x42, k]
  | .vqPushw w => 0x43 :: leBytes4 w
  | .vqPushb bs => 0x44 :: BitVec.ofNat 8 bs.length :: bs
  | .vqiClr => [0x45]
  | .pack => [0x46]
  | .unpack => [0x47]
  | .vqPop => [0x48]
  | .u8 => [0x00]
  | .i16 => [0x01]
  | .u16 => [0x02]
  | .i32 => [0x03]
  | .u32 => [0x04]
  | .f32 => [0x05]
  | .cstr => [0x06]
  | .blob => [0x07]

/-- The length in bytes of an instruction: formats N, B, W and S have 1, 2, 5 and 2 + n bytes (30_encoding.md R85); a
SIG entry is one byte (R90). -/
def Instr.byteLength : Instr → Nat
  | .regRd _ | .crcUpd _ | .pbApp _ | .pbRd _ | .decFeed _ | .rxApp _ | .rxRd _ | .sigApp _ => 2
  | .vqPushw _ => 5
  | .vqPushb bs => 2 + bs.length
  | .nop | .reset | .crcClr | .crcRd | .pbClr | .encFrame | .txPop | .decRst | .decTake | .rxClr | .feRst | .sigClr
  | .vqiClr | .pack | .unpack | .vqPop | .u8 | .i16 | .u16 | .i32 | .u32 | .f32 | .cstr | .blob => 1

/-- A word of the opcode table as bytes: bit 0 is the least significant bit of the first byte, and every bit from
`nbits` up is 0. There are as many bytes as an instruction with those first two bytes can have: 5 for format W, 2 + n
for format S (30_encoding.md R85). -/
def tableBytes (nbits w : Nat) : List Byte :=
  natBytes (5 + w % 2 ^ nbits / 256 % 256) (w % 2 ^ nbits)

/-- The instruction that a word of the opcode table stands for. The command stream's decoder reads it first. A word of
at most one byte that is no assigned command code is then read as a SIG entry (log 8). -/
def decodeTableWord (nbits w : Nat) : Option Instr :=
  match decode (tableBytes nbits w) with
  | .command i _ => some i
  | .unassigned c _ => if nbits ≤ 8 then decodeKind c else none
  | .incomplete => none

end Sys2Proof
end

