-- ==== Sys2Proof/Machine/FieldKinds.lean ====
section
/-! DEFINITION. The field kinds, the microinstructions of the field engine (44_field_kinds.md): the pack step and the
unpack step of each, as functions, and its meaning in the run in progress. -/

namespace Sys2Proof.Machine

/-- The pack step of a numeric kind, whose bytes are a function of the word; `last` stays. -/
def packWord (bytes : Word → List Byte) : PackStep
  | .word w, last => .ok (bytes w, last)
  | .bytes _, _ => .error .valueKindMismatch

/-- The unpack step of a kind of one 16-bit number: ShortBuffer when fewer than 2 bytes remain. -/
def unpackHalf (extend : BitVec 16 → Word) : UnpackStep := fun rx cur last =>
  if rx.length < cur + 2 then .error .shortBuffer
  else .ok (.word (extend (leHalf (rx.getD cur 0) (rx.getD (cur + 1) 0))), cur + 2, last)

/-- The unpack step of a kind of one 32-bit pattern: ShortBuffer when fewer than 4 bytes remain. -/
def unpackWord : UnpackStep := fun rx cur last =>
  if rx.length < cur + 4 then .error .shortBuffer
  else .ok (.word (leWord (rx.getD cur 0) (rx.getD (cur + 1) 0) (rx.getD (cur + 2) 0) (rx.getD (cur + 3) 0)),
    cur + 4, last)

/-! ## U8 -/

/-- U8 pack: the low byte, which also becomes `last` (44_field_kinds.md R220). -/
def packU8 : PackStep
  | .word w, _ => .ok ([wordByte w 0], wordByte w 0)
  | .bytes _, _ => .error .valueKindMismatch

/-- U8 unpack: one byte, zero-extended, which also becomes `last` (44_field_kinds.md R221). -/
def unpackU8 : UnpackStep := fun rx cur _ =>
  if rx.length < cur + 1 then .error .shortBuffer
  else .ok (.word (zext8 (rx.getD cur 0)), cur + 1, rx.getD cur 0)

/-- U8 in the run in progress (44_field_kinds.md R220, R221). -/
def execU8 (s : State) : Host.Outcome State Fault Refusal :=
  fieldStep packU8 unpackU8 s

/-! ## I16 -/

/-- I16 pack: the low 16 bits (44_field_kinds.md R222). -/
def packI16 : PackStep := packWord leBytes2

/-- I16 unpack: 16 bits, sign-extended (44_field_kinds.md R223). -/
def unpackI16 : UnpackStep := unpackHalf sext16

/-- I16 in the run in progress (44_field_kinds.md R222, R223). -/
def execI16 (s : State) : Host.Outcome State Fault Refusal :=
  fieldStep packI16 unpackI16 s

/-! ## U16 -/

/-- U16 pack: the low 16 bits (44_field_kinds.md R224). -/
def packU16 : PackStep := packWord leBytes2

/-- U16 unpack: 16 bits, zero-extended (44_field_kinds.md R225). -/
def unpackU16 : UnpackStep := unpackHalf zext16

/-- U16 in the run in progress (44_field_kinds.md R224, R225). -/
def execU16 (s : State) : Host.Outcome State Fault Refusal :=
  fieldStep packU16 unpackU16 s

/-! ## I32 -/

/-- I32 pack: all 32 bits (44_field_kinds.md R226). -/
def packI32 : PackStep := packWord leBytes4

/-- I32 unpack: 32 bits, no extension (44_field_kinds.md R227). -/
def unpackI32 : UnpackStep := unpackWord

/-- I32 in the run in progress (44_field_kinds.md R226, R227). -/
def execI32 (s : State) : Host.Outcome State Fault Refusal :=
  fieldStep packI32 unpackI32 s

/-! ## U32 -/

/-- U32 pack: all 32 bits (44_field_kinds.md R228). -/
def packU32 : PackStep := packWord leBytes4

/-- U32 unpack: 32 bits, no extension (44_field_kinds.md R229). -/
def unpackU32 : UnpackStep := unpackWord

/-- U32 in the run in progress (44_field_kinds.md R228, R229). -/
def execU32 (s : State) : Host.Outcome State Fault Refusal :=
  fieldStep packU32 unpackU32 s

/-! ## F32 -/

/-- F32 pack: the bit pattern, copied; no float arithmetic (44_field_kinds.md R230). -/
def packF32 : PackStep := packWord leBytes4

/-- F32 unpack: the bit pattern, copied; no canonicalisation (44_field_kinds.md R231). -/
def unpackF32 : UnpackStep := unpackWord

/-- F32 in the run in progress (44_field_kinds.md R230, R231). -/
def execF32 (s : State) : Host.Outcome State Fault Refusal :=
  fieldStep packF32 unpackF32 s

/-! ## CSTR -/

/-- CSTR pack: the bytes as given and one terminator (44_field_kinds.md R232). -/
def packCstr : PackStep
  | .bytes bs, last => .ok (bs ++ [0x00], last)
  | .word _, _ => .error .valueKindMismatch

/-- CSTR unpack: the bytes before the first 0x00, which is consumed and not returned, or the rest of the buffer. It
never fails (44_field_kinds.md R233). -/
def unpackCstr : UnpackStep := fun rx cur last =>
  let str := (rx.drop cur).takeWhile (· != 0x00)
  .ok (.bytes str, if cur + str.length < rx.length then cur + str.length + 1 else rx.length, last)

/-- CSTR in the run in progress (44_field_kinds.md R232, R233). -/
def execCstr (s : State) : Host.Outcome State Fault Refusal :=
  fieldStep packCstr unpackCstr s

/-! ## BLOB -/

/-- BLOB pack: the bytes as given, as many as `last` says (44_field_kinds.md R234). -/
def packBlob : PackStep
  | .bytes bs, last => if bs.length ≠ last.toNat then .error .blobLengthMismatch else .ok (bs, last)
  | .word _, _ => .error .valueKindMismatch

/-- BLOB unpack: the next `last` bytes (44_field_kinds.md R235). -/
def unpackBlob : UnpackStep := fun rx cur last =>
  if rx.length < cur + last.toNat then .error .shortBuffer
  else .ok (.bytes ((rx.drop cur).take last.toNat), cur + last.toNat, last)

/-- BLOB in the run in progress (44_field_kinds.md R234, R235). -/
def execBlob (s : State) : Host.Outcome State Fault Refusal :=
  fieldStep packBlob unpackBlob s

end Sys2Proof.Machine
end

