-- ==== Sys2Proof/Machine/FieldEngine.lean ====
section
/-! DEFINITION. The field engine's commands and its microengine (43_field_engine.md). -/

namespace Sys2Proof.Machine

/-- FE.RST, the one field-engine command the halted gate does not refuse (43_field_engine.md R190). -/
def execFeRst (s : State) : Host.Outcome State Fault Refusal :=
  State.complete s.resetFieldEngine

/-- SIG.CLR (43_field_engine.md R191). -/
def execSigClr (s : State) : Host.Outcome State Fault Refusal :=
  feGate s (State.complete { s with siglen := 0 })

/-- SIG.APP: any byte is stored, and the run validates it (43_field_engine.md R192). -/
def execSigApp (k : Byte) (s : State) : Host.Outcome State Fault Refusal :=
  feGate s
    (if s.siglen.toNat = Config.sigCap then s.raise .sigFull
     else if Config.sigCap < s.siglen.toNat then .fault .noSuchEntry
     else State.complete { s with sig := s.sig.write s.siglen.toNat k, siglen := s.siglen + 1 })

/-- Append a value to the input queue, unless it is full (43_field_engine.md R193, R194). -/
def pushValue (v : Value) (s : State) : Host.Outcome State Fault Refusal :=
  if s.vqi.length = Config.vqCap then s.raise .vqFull
  else State.complete { s with vqi := s.vqi ++ [v] }

/-- VQ.PUSHW (43_field_engine.md R193). -/
def execVqPushw (w : Word) (s : State) : Host.Outcome State Fault Refusal :=
  feGate s (pushValue (.word w) s)

/-- VQ.PUSHB (43_field_engine.md R194). -/
def execVqPushb (bs : List Byte) (s : State) : Host.Outcome State Fault Refusal :=
  feGate s (pushValue (.bytes bs) s)

/-- VQI.CLR (43_field_engine.md R195). -/
def execVqiClr (s : State) : Host.Outcome State Fault Refusal :=
  feGate s (State.complete { s with vqi := [] })

/-- VQ.POP (43_field_engine.md R196). -/
def execVqPop (s : State) : Host.Outcome State Fault Refusal :=
  feGate s
    (match s.vqo with
     | [] => s.raise .vqEmpty
     | v :: vs => State.answer { s with vqo := vs } (.value v))

/-! ## Runs -/

/-- What is wrong with one entry of a signature, given the entry before it: an unknown code is tested before a BLOB
that does not directly follow a U8 (43_field_engine.md R202, 30_encoding.md R92). -/
def entryError (prev : Option Byte) (k : Byte) : Option Status :=
  match decodeKind k with
  | none => some .unknownFieldKind
  | some .blob => if prev.bind decodeKind = some .u8 then none else some .malformedSignature
  | some _ => none

/-- The first entry from index `i` on that is wrong, with its index and status; `prev` is the entry before. -/
def validateFrom (i : Nat) (prev : Option Byte) : List Byte → Option (Nat × Status)
  | [] => none
  | k :: ks =>
    match entryError prev k with
    | some e => some (i, e)
    | none => validateFrom (i + 1) (some k) ks

/-- Validation of a whole signature: the lowest failing index (43_field_engine.md R202). -/
def validate (sig : List Byte) : Option (Nat × Status) :=
  validateFrom 0 none sig

/-- Execute the SIG entry `k` at index `i` as a microinstruction. A code that is no field kind has no step: it halts
the engine (30_encoding.md R91, 44_field_kinds.md R236); validation lets no run start with one (log 13). -/
def execEntry (k : Byte) (i : Nat) (s : State) : Host.Outcome State Fault Refusal :=
  match decodeKind k with
  | some .u8 => execU8 s
  | some .i16 => execI16 s
  | some .u16 => execU16 s
  | some .i32 => execI32 s
  | some .u32 => execU32 s
  | some .f32 => execF32 s
  | some .cstr => execCstr s
  | some .blob => execBlob s
  | _ => haltEngine .unknownFieldKind i s

/-- One step of the run `r` in progress: execute the entry at its index, or commit when every field is done
(43_field_engine.md R201, R204; 10_state.md R53). -/
def microStep (r : Run) (s : State) : Host.Outcome State Fault Refusal :=
  if r.idx < s.siglen.toNat then
    if Config.sigCap ≤ r.idx then .fault .noSuchEntry
    else execEntry (s.sig.read r.idx) r.idx s
  else commitRun r s

/-- Step the run in progress until it has ended, in at most `n` steps. -/
def finishRun : Nat → State → Host.Outcome State Fault Refusal
  | 0, s => .next s
  | n + 1, s =>
    match s.run with
    | none => .next s
    | some r =>
      match microStep r s with
      | .next s' => finishRun n s'
      | .fault f => .fault f
      | .refused f => .refused f

/-- A whole run, in one command (43_field_engine.md R201, 00_scope.md R8): one step per field and the commit. -/
def runAll (mode : RunMode) (s : State) : Host.Outcome State Fault Refusal :=
  finishRun (s.siglen.toNat + 1) (s.beginRun mode)

/-- What precedes every run: the halted gate, then the validation of the whole signature (43_field_engine.md R200 to
R202). -/
def validated (s : State) (body : Host.Outcome State Fault Refusal) : Host.Outcome State Fault Refusal :=
  feGate s
    (if Config.sigCap < s.siglen.toNat then .fault .noSuchEntry
     else match validate s.signature with
       | some (i, e) => haltEngine e i s
       | none => body)

/-- PACK (43_field_engine.md R205, with the value count of R203). -/
def execPack (s : State) : Host.Outcome State Fault Refusal :=
  validated s
    (if s.vqi.length = s.siglen.toNat then runAll .pack s
     else abandonPack .valueCountMismatch (min s.vqi.length s.siglen.toNat) s)

/-- UNPACK (43_field_engine.md R206). -/
def execUnpack (s : State) : Host.Outcome State Fault Refusal :=
  validated s (runAll .unpack s)

end Sys2Proof.Machine
end

