-- ==== Sys2Proof/Machine/Dispatch.lean ====
section
/-! DEFINITION. The meaning of every instruction: one arm per constructor of Instr. -/

namespace Sys2Proof.Machine

def exec (i : Instr) (s : State) : Host.Outcome State Fault Refusal :=
  match i with
  | .nop => Sys2Proof.Machine.execNop s
  | .reset => Sys2Proof.Machine.execReset s
  | .regRd r => Sys2Proof.Machine.execRegRd r s
  | .crcClr => Sys2Proof.Machine.execCrcClr s
  | .crcUpd b => Sys2Proof.Machine.execCrcUpd b s
  | .crcRd => Sys2Proof.Machine.execCrcRd s
  | .pbClr => Sys2Proof.Machine.execPbClr s
  | .pbApp b => Sys2Proof.Machine.execPbApp b s
  | .pbRd n => Sys2Proof.Machine.execPbRd n s
  | .encFrame => Sys2Proof.Machine.execEncFrame s
  | .txPop => Sys2Proof.Machine.execTxPop s
  | .decRst => Sys2Proof.Machine.execDecRst s
  | .decFeed b => Sys2Proof.Machine.execDecFeed b s
  | .decTake => Sys2Proof.Machine.execDecTake s
  | .rxClr => Sys2Proof.Machine.execRxClr s
  | .rxApp b => Sys2Proof.Machine.execRxApp b s
  | .rxRd n => Sys2Proof.Machine.execRxRd n s
  | .feRst => Sys2Proof.Machine.execFeRst s
  | .sigClr => Sys2Proof.Machine.execSigClr s
  | .sigApp k => Sys2Proof.Machine.execSigApp k s
  | .vqPushw w => Sys2Proof.Machine.execVqPushw w s
  | .vqPushb bs => Sys2Proof.Machine.execVqPushb bs s
  | .vqiClr => Sys2Proof.Machine.execVqiClr s
  | .pack => Sys2Proof.Machine.execPack s
  | .unpack => Sys2Proof.Machine.execUnpack s
  | .vqPop => Sys2Proof.Machine.execVqPop s
  | .u8 => Sys2Proof.Machine.execU8 s
  | .i16 => Sys2Proof.Machine.execI16 s
  | .u16 => Sys2Proof.Machine.execU16 s
  | .i32 => Sys2Proof.Machine.execI32 s
  | .u32 => Sys2Proof.Machine.execU32 s
  | .f32 => Sys2Proof.Machine.execF32 s
  | .cstr => Sys2Proof.Machine.execCstr s
  | .blob => Sys2Proof.Machine.execBlob s

end Sys2Proof.Machine
end

