-- ==== Sys2Proof/Machine/Fetch.lean ====
section
/-! DEFINITION. Where the next instruction comes from: the command port (`inp`), or SIG while a run is in progress. -/

namespace Sys2Proof.Machine

/-- The instruction's own bytes at the front of a laid-out table word: what is left of it when the rest is cut off. -/
def frontBytes (bs rest : List Byte) : List Byte :=
  bs.take (bs.length - rest.length)

/-- Put command bytes at the front of the command port, where the next step reads them when no run is in progress
(log 1). -/
def State.deliver (bs : List Byte) (s : State) : State :=
  { s with run := none, inp := bs ++ s.inp }

/-- Put a field kind where a run reads its first entry, and have an UNPACK run in progress there (log 6). -/
def State.placeKind (k : Byte) (s : State) : State :=
  { s with sig := s.sig.write 0 k, siglen := 1, run := some (Run.start .unpack) }

/-- Place the instruction of an opcode-table word where the next step fetches it: a command at the command port, a
field kind at SIG[0] of a run (log 8). -/
def State.placeTableWord (nbits w : Nat) (s : State) : State :=
  let bs := tableBytes nbits w
  match decode bs with
  | .command _ rest => s.deliver (frontBytes bs rest)
  | .unassigned c _ =>
    if nbits ≤ 8 ∧ (decodeKind c).isSome then s.placeKind c else s.deliver [c]
  | .incomplete => s.deliver bs

end Sys2Proof.Machine
end

