-- ==== Sys2Proof/Machine/Step.lean ====
section
/-! DEFINITION. One step: the first whole command of the command port, or one SIG entry of the run in progress. -/

namespace Sys2Proof.Machine

/-- One step of the block. With no run in progress it executes the first whole command the host has delivered
(00_scope.md R8, 60_exceptions.md R264, R276). With a run in progress it executes one microinstruction of the run; a
run that PACK or UNPACK starts is finished within that command's own step (log 6). -/
def step (s : State) : Host.Outcome State Fault Refusal :=
  match s.run with
  | some r => microStep r s
  | none =>
    match decode s.inp with
    | .command i rest => exec i { s with inp := rest }
    | .unassigned _ rest => badCommand { s with inp := rest }
    | .incomplete => waitForHost s

/-- `s` with the instruction of an opcode-table word placed where `step` fetches its next instruction. -/
def State.withFetchWord (s : State) (nbits w : Nat) : State :=
  s.placeTableWord nbits w

end Sys2Proof.Machine
end

