-- ==== Sys2Proof/Machine/Assembler.lean ====
section
/-! DEFINITION. The pseudo-instructions (30_encoding.md R95) as command lists, and the assembler's line syntax (R94,
R96) as a reader of one line. Text is a list of characters. What those rules leave open of empty lists is log 16, and of
the text itself log 17 (DESIGN CHOICE). -/

namespace Sys2Proof.Machine

/-! ## Pseudo-instructions (30_encoding.md R95) -/

/-- `PB.LOAD b0, ..., bk`. -/
def pbLoad (bs : List Byte) : List Instr :=
  .pbClr :: bs.map .pbApp

/-- `RX.LOAD b0, ..., bk`. -/
def rxLoad (bs : List Byte) : List Instr :=
  .rxClr :: bs.map .rxApp

/-- `SIG.LOAD k0, ..., kj`. -/
def sigLoad (ks : List Byte) : List Instr :=
  .sigClr :: ks.map .sigApp

/-- The field-kind codes of a signature string: `B` is U8, and any other character is an assembly error
(30_encoding.md R95, R96). -/
def tagCodes : List Char → Option (List Byte)
  | [] => some []
  | c :: cs => if c = 'B' then (tagCodes cs).map (0x00 :: ·) else none

/-- `SIG.LOAD "t"`. R95 says nothing of an empty t: the model takes it as an empty `SIG.LOAD` (DESIGN CHOICE,
log 16). -/
def sigLoadText (t : List Char) : Option (List Instr) :=
  (tagCodes t).map sigLoad

/-- `DEC.FEEDS b0, ..., bk`. R95 allows an empty list for its first three rows only and says nothing of one here: the
model takes it and gives no command (DESIGN CHOICE, log 16). -/
def decFeeds (bs : List Byte) : List Instr :=
  bs.map .decFeed

/-- `TX.DRAIN n`. R95 sets no bounds for n: the model takes any number, and gives no command for 0 (DESIGN CHOICE,
log 16). -/
def txDrain (n : Nat) : List Instr :=
  List.replicate n .txPop

/-- `CRC.OF b0, ..., bk`. R95 allows an empty list for its first three rows only and says nothing of one here: the model
takes it and gives `CRC.CLR; CRC.RD` (DESIGN CHOICE, log 16). -/
def crcOf (bs : List Byte) : List Instr :=
  .crcClr :: bs.map .crcUpd ++ [.crcRd]

/-- `SEND`, where `plen` is PLEN when ENC.FRAME executes. -/
def send (plen : Nat) : List Instr :=
  .encFrame :: txDrain (plen + 3)

/-! ## Line syntax (30_encoding.md R94) -/

/-- A line without its comment, which starts with `;` outside a quoted string (inside one it is a character: DESIGN
CHOICE, log 17); the flag says whether a quote is open. -/
def stripComment : Bool → List Char → List Char
  | _, [] => []
  | quoted, c :: cs =>
    if c = ';' && !quoted then [] else c :: stripComment (if c = '"' then !quoted else quoted) cs

/-- A blank of the line syntax (DESIGN CHOICE, log 17). -/
def isBlank (c : Char) : Bool :=
  c = ' ' || c = '\t'

/-- A text without the blanks around it. -/
def trimBlanks (cs : List Char) : List Char :=
  ((cs.dropWhile isBlank).reverse.dropWhile isBlank).reverse

/-- The value of a digit; a hex letter may have either case (DESIGN CHOICE, log 17). -/
def digitValue (c : Char) : Option Nat :=
  let n := c.toNat
  if 48 ≤ n ∧ n ≤ 57 then some (n - 48)
  else if 65 ≤ n ∧ n ≤ 70 then some (n - 55)
  else if 97 ≤ n ∧ n ≤ 102 then some (n - 87)
  else none

/-- Digits of a base, read onto an accumulator. -/
def readDigits (base acc : Nat) : List Char → Option Nat
  | [] => some acc
  | c :: cs =>
    match digitValue c with
    | some d => if d < base then readDigits base (acc * base + d) cs else none
    | none => none

/-- A number, decimal or `0x` hex. -/
def readNumber : List Char → Option Nat
  | '0' :: 'x' :: c :: cs => readDigits 16 0 (c :: cs)
  | c :: cs => readDigits 10 0 (c :: cs)
  | [] => none

/-- A byte operand: 0..255. -/
def readByte (cs : List Char) : Option Byte :=
  match readNumber cs with
  | some n => if n ≤ 255 then some (BitVec.ofNat 8 n) else none
  | none => none

/-- A word operand: 0..0xFFFFFFFF, or -2^31..-1 as its two's-complement word. -/
def readWord : List Char → Option Word
  | '-' :: cs =>
    match readNumber cs with
    | some n => if 1 ≤ n ∧ n ≤ 2 ^ 31 then some (BitVec.ofNat 32 (2 ^ 32 - n)) else none
    | none => none
  | cs =>
    match readNumber cs with
    | some n => if n < 2 ^ 32 then some (BitVec.ofNat 32 n) else none
    | none => none

/-- The characters of a quoted string; there are no escapes (DESIGN CHOICE, log 17). -/
def readQuoted : List Char → Option (List Char)
  | '"' :: cs =>
    match cs.reverse with
    | '"' :: body => if body.contains '"' then none else some body.reverse
    | _ => none
  | _ => none

/-- The ASCII bytes of characters, with no terminator. -/
def asciiBytes : List Char → Option (List Byte)
  | [] => some []
  | c :: cs => if c.toNat < 128 then (asciiBytes cs).map (BitVec.ofNat 8 c.toNat :: ·) else none

/-- Split at the commas outside quotes: the element being read, then the rest. -/
def splitCommas (quoted : Bool) (now : List Char) : List Char → List (List Char)
  | [] => [trimBlanks now.reverse]
  | c :: cs =>
    if c = ',' && !quoted then trimBlanks now.reverse :: splitCommas false [] cs
    else splitCommas (if c = '"' then !quoted else quoted) (c :: now) cs

/-- The elements of a list operand; an empty text is the empty list. -/
def listElements (cs : List Char) : List (List Char) :=
  if (trimBlanks cs).isEmpty then [] else splitCommas false [] cs

/-- One element of a byte list: a byte, or a quoted string standing for its ASCII bytes (30_encoding.md R95). -/
def readElement (cs : List Char) : Option (List Byte) :=
  match readQuoted cs with
  | some t => asciiBytes t
  | none => (readByte cs).map ([·])

/-- A list of elements read with one reader and joined. -/
def readAll (f : List Char → Option (List Byte)) : List (List Char) → Option (List Byte)
  | [] => some []
  | e :: es =>
    match f e, readAll f es with
    | some a, some b => some (a ++ b)
    | _, _ => none

/-- A byte-list operand of a pseudo-instruction. An empty text is the empty list for every one of them, DEC.FEEDS and
CRC.OF too, of which R95 does not say so (DESIGN CHOICE, log 16). -/
def readBytes (cs : List Char) : Option (List Byte) :=
  readAll readElement (listElements cs)

/-- The field-kind mnemonics of 30_encoding.md R90. -/
def kindNames : List (List Char × Byte) :=
  [(['U', '8'], 0x00), (['I', '1', '6'], 0x01), (['U', '1', '6'], 0x02), (['I', '3', '2'], 0x03),
   (['U', '3', '2'], 0x04), (['F', '3', '2'], 0x05), (['C', 'S', 'T', 'R'], 0x06), (['B', 'L', 'O', 'B'], 0x07)]

/-- The operand of SIG.APP: a field-kind mnemonic or a byte. -/
def readKind (cs : List Char) : Option Byte :=
  match kindNames.lookup cs with
  | some k => some k
  | none => readByte cs

/-- The operand of VQ.PUSHB: a quoted string, or a list of bytes in brackets; format S holds at most 255 bytes. -/
def readString (cs : List Char) : Option (List Byte) :=
  let bs : Option (List Byte) :=
    match readQuoted cs with
    | some t => asciiBytes t
    | none =>
      match cs with
      | '[' :: rest =>
        match rest.reverse with
        | ']' :: body => readAll (fun e => (readByte e).map ([·])) (listElements body.reverse)
        | _ => none
      | _ => none
  match bs with
  | some l => if l.length ≤ 255 then some l else none
  | none => none

/-- Mnemonics with no operand. -/
def plainNames : List (List Char × Instr) :=
  [(['N', 'O', 'P'], .nop), (['R', 'E', 'S', 'E', 'T'], .reset),
   (['C', 'R', 'C', '.', 'C', 'L', 'R'], .crcClr), (['C', 'R', 'C', '.', 'R', 'D'], .crcRd),
   (['P', 'B', '.', 'C', 'L', 'R'], .pbClr), (['E', 'N', 'C', '.', 'F', 'R', 'A', 'M', 'E'], .encFrame),
   (['T', 'X', '.', 'P', 'O', 'P'], .txPop), (['D', 'E', 'C', '.', 'R', 'S', 'T'], .decRst),
   (['D', 'E', 'C', '.', 'T', 'A', 'K', 'E'], .decTake), (['R', 'X', '.', 'C', 'L', 'R'], .rxClr),
   (['F', 'E', '.', 'R', 'S', 'T'], .feRst), (['S', 'I', 'G', '.', 'C', 'L', 'R'], .sigClr),
   (['V', 'Q', 'I', '.', 'C', 'L', 'R'], .vqiClr), (['P', 'A', 'C', 'K'], .pack),
   (['U', 'N', 'P', 'A', 'C', 'K'], .unpack), (['V', 'Q', '.', 'P', 'O', 'P'], .vqPop)]

/-- Mnemonics with a byte operand. -/
def byteNames : List (List Char × (Byte → Instr)) :=
  [(['R', 'E', 'G', '.', 'R', 'D'], .regRd), (['C', 'R', 'C', '.', 'U', 'P', 'D'], .crcUpd),
   (['P', 'B', '.', 'A', 'P', 'P'], .pbApp), (['P', 'B', '.', 'R', 'D'], .pbRd),
   (['D', 'E', 'C', '.', 'F', 'E', 'E', 'D'], .decFeed), (['R', 'X', '.', 'A', 'P', 'P'], .rxApp),
   (['R', 'X', '.', 'R', 'D'], .rxRd)]

/-- Pseudo-instructions with a byte-list operand. -/
def listNames : List (List Char × (List Byte → List Instr)) :=
  [(['P', 'B', '.', 'L', 'O', 'A', 'D'], pbLoad), (['R', 'X', '.', 'L', 'O', 'A', 'D'], rxLoad),
   (['D', 'E', 'C', '.', 'F', 'E', 'E', 'D', 'S'], decFeeds), (['C', 'R', 'C', '.', 'O', 'F'], crcOf)]

/-- The operand of SIG.LOAD: a signature string, or a list of field kinds (30_encoding.md R95). -/
def readSigLoad (cs : List Char) : Option (List Instr) :=
  match readQuoted cs with
  | some t => sigLoadText t
  | none => (readAll (fun e => (readKind e).map ([·])) (listElements cs)).map sigLoad

/-- A mnemonic with its operand text. -/
def assembleParts (plen : Nat) (name operand : List Char) : Option (List Instr) :=
  match plainNames.lookup name with
  | some i => if operand.isEmpty then some [i] else none
  | none =>
  match byteNames.lookup name with
  | some f => (readByte operand).map fun b => [f b]
  | none =>
  match listNames.lookup name with
  | some f => (readBytes operand).map f
  | none =>
  if name = ['S', 'I', 'G', '.', 'A', 'P', 'P'] then (readKind operand).map fun k => [.sigApp k]
  else if name = ['V', 'Q', '.', 'P', 'U', 'S', 'H', 'W'] then (readWord operand).map fun w => [.vqPushw w]
  else if name = ['V', 'Q', '.', 'P', 'U', 'S', 'H', 'B'] then (readString operand).map fun bs => [.vqPushb bs]
  else if name = ['S', 'I', 'G', '.', 'L', 'O', 'A', 'D'] then readSigLoad operand
  else if name = ['T', 'X', '.', 'D', 'R', 'A', 'I', 'N'] then (readNumber operand).map txDrain
  else if name = ['S', 'E', 'N', 'D'] then if operand.isEmpty then some (send plen) else none
  else none

/-- The commands of one line of assembler text, none for an assembly error (30_encoding.md R94 to R96). `plen` is the
PLEN that SEND uses. An empty or comment line gives no command. -/
def assembleLine (plen : Nat) (line : List Char) : Option (List Instr) :=
  let text := trimBlanks (stripComment false line)
  if text.isEmpty then some []
  else
    let name := text.takeWhile (fun c => !isBlank c)
    assembleParts plen name (trimBlanks (text.drop name.length))

end Sys2Proof.Machine
end

