-- ==== Sys2Proof/Safety.lean ====
section
/-! DEFINITION. What a good state is, in the terms the claims use: the invariant of 10_state.md, the agreement of two
states on everything observable (R51), and the groups of instructions the rules speak of. -/

namespace Sys2Proof

/-- The commands the halted gate refuses while the field engine is halted (43_field_engine.md R200). -/
def Instr.isGated : Instr → Bool
  | .sigClr | .sigApp _ | .vqPushw _ | .vqPushb _ | .vqiClr | .pack | .unpack | .vqPop => true
  | .nop | .reset | .regRd _ | .crcClr | .crcUpd _ | .crcRd | .pbClr | .pbApp _ | .pbRd _ | .encFrame | .txPop
  | .decRst | .decFeed _ | .decTake | .rxClr | .rxApp _ | .rxRd _ | .feRst
  | .u8 | .i16 | .u16 | .i32 | .u32 | .f32 | .cstr | .blob => false

/-- The bytes a host sends for a list of commands (30_encoding.md R80). -/
def commandBytes (is : List Instr) : List Byte :=
  is.flatMap encode

namespace Machine

/-! ## The invariant -/

/-- A byte-string value has at most BYTES_MAX bytes (10_state.md R40). -/
def Value.Legal : Value → Prop
  | .word _ => True
  | .bytes bs => bs.length ≤ Config.bytesMax

/-- Every buffer is in canonical form and lists only entries it has (20_memory.md R60). -/
def MemoriesOk (s : State) : Prop :=
  s.pb.wf Config.pbCap = true ∧ s.txb.wf Config.txCap = true ∧ s.db.wf Config.dbCap = true ∧
  s.rxb.wf Config.rxCap = true ∧ s.sig.wf Config.sigCap = true

/-- The encoder: TXPOS ≤ TXLEN, and TXB holds the frame of some payload unless no frame was encoded since reset
(10_state.md R24, 41_frame_encoder.md R147). -/
def EncoderOk (s : State) : Prop :=
  s.txpos.toNat ≤ s.txlen.toNat ∧
  (s.txlen = 0 ∨
    ∃ p : List Byte, p.length ≤ Config.maxPayloadLength ∧ s.txlen.toNat = p.length + 3 ∧ s.frame = frameOf p)

/-- DEXP and DCNT in each decoder state (10_state.md R31; R27 and R28 for ERROR). -/
def CountsOk (s : State) : Prop :=
  match s.dstate with
  | .waitHeader | .waitLength => s.dexp = 0 ∧ s.dcnt = 0
  | .waitData => s.dcnt.toNat < s.dexp.toNat
  | .waitCrc | .ready | .error => s.dcnt = s.dexp

/-- The decoder: DEXP ≤ 32, DCRC is the checksum of the bytes received (10_state.md R29), DERR names an error exactly
in ERROR (R26), and the counts of R31. -/
def DecoderOk (s : State) : Prop :=
  s.dexp.toNat ≤ Config.maxPayloadLength ∧ s.dcrc = crc8 s.decoded ∧ (s.derr = .none ↔ s.dstate ≠ .error) ∧
  CountsOk s

/-- The statuses that halt the engine (60_exceptions.md R261, class fatal). -/
def Status.isFatal : Status → Bool
  | .unknownFieldKind | .malformedSignature => true
  | _ => false

/-- The field engine: capacities (10_state.md R20, R40 to R43), and it is halted exactly when the last run ended with a
fatal error (R44, R45). -/
def EngineOk (s : State) : Prop :=
  s.siglen.toNat ≤ Config.sigCap ∧ s.vqi.length ≤ Config.vqCap ∧ s.vqo.length ≤ Config.vqCap ∧
  (∀ v ∈ s.vqi, v.Legal) ∧ (∀ v ∈ s.vqo, v.Legal) ∧ s.feErrIdx.toNat ≤ Config.sigCap ∧
  (s.feState = .fatal ↔ s.feErr.isFatal = true)

/-- A run in progress has passed the gate, the validation and the value count, and its variables are within bounds
(43_field_engine.md R201 to R206). -/
def RunOk (s : State) : Prop :=
  match s.run with
  | none => True
  | some r =>
    s.feState = .idle ∧ validate s.signature = none ∧ r.idx ≤ s.siglen.toNat ∧
    match r.mode with
    | .pack => s.vqi.length = s.siglen.toNat ∧ s.plen.toNat + r.out.length ≤ Config.pbCap
    | .unpack => r.cur ≤ s.rxlen.toNat ∧ r.res.length = r.idx ∧ ∀ v ∈ r.res, v.Legal

/-- The invariant of the block. -/
structure Inv (s : State) : Prop where
  memories : MemoriesOk s
  encoder : EncoderOk s
  decoder : DecoderOk s
  engine : EngineOk s
  noBadRun : RunOk s

/-! ## What is observable (10_state.md R51) -/

/-- Two buffers with the same first `n` entries. -/
def SameBelow (n : Nat) (m m' : Memory) : Prop :=
  ∀ k < n, m.read k = m'.read k

/-- Two states that differ at most in buffer bytes at or beyond the buffers' valid lengths. -/
def Agree (s t : State) : Prop :=
  SameBelow s.plen.toNat s.pb t.pb ∧ SameBelow s.txlen.toNat s.txb t.txb ∧ SameBelow s.dcnt.toNat s.db t.db ∧
  SameBelow s.rxlen.toNat s.rxb t.rxb ∧ SameBelow s.siglen.toNat s.sig t.sig ∧
  t = { s with pb := t.pb, txb := t.txb, db := t.db, rxb := t.rxb, sig := t.sig }

/-! ## Several steps -/

/-- `n` steps of the machine, stopping at the first fault or refusal. -/
def runSteps (n : Nat) (s : State) : Host.Outcome State Fault Refusal :=
  Host.Core.run Sys2Proof.core n s

end Machine

end Sys2Proof
end

