-- ==== Sys2Proof/Certificates/Slice0/Obligations.lean ====
section
/-! DEFINITION. The statements for the provers, and the reference functions they are stated against: the spec's own
pseudocode and tables, written down a second time and apart from the model. In every statement the command bytes stand
in `inp` and the responses in `out`, which is the model's own form of the command port (log 1, log 2). -/

namespace Sys2Proof.Reference

open Sys2Proof.Machine

/-- The response of a command that completes with OK and no result. -/
def okay : Response := { status := .ok, result := .none }

/-- The response of a command that completes with a status other than OK. -/
def failed (e : Status) : Response := { status := e, result := .none }

/-- The unassigned codes, range by range as 30_encoding.md R89 lists them. -/
def Unassigned (c : Byte) : Prop :=
  (0x03 ≤ c.toNat ∧ c.toNat ≤ 0x0F) ∨ (0x13 ≤ c.toNat ∧ c.toNat ≤ 0x1F) ∨ (0x25 ≤ c.toNat ∧ c.toNat ≤ 0x2F) ∨
  (0x33 ≤ c.toNat ∧ c.toNat ≤ 0x37) ∨ (0x3B ≤ c.toNat ∧ c.toNat ≤ 0x3F) ∨ (0x49 ≤ c.toNat ∧ c.toNat ≤ 0xFF)

/-- The status codes (60_exceptions.md R260). -/
def statusNumber : Status → Nat
  | .ok => 0x00
  | .invalidHeader => 0x01
  | .payloadTooLarge => 0x02
  | .checksumMismatch => 0x03
  | .decoderHalted => 0x04
  | .decoderFull => 0x05
  | .notReady => 0x06
  | .txBusy => 0x07
  | .txEmpty => 0x08
  | .bufferFull => 0x09
  | .badOperand => 0x0A
  | .badCommand => 0x0B
  | .unknownFieldKind => 0x10
  | .malformedSignature => 0x11
  | .feHalted => 0x12
  | .valueCountMismatch => 0x13
  | .valueKindMismatch => 0x14
  | .blobLengthMismatch => 0x15
  | .shortBuffer => 0x16
  | .vqFull => 0x17
  | .vqEmpty => 0x18
  | .sigFull => 0x19

/-- The numbers of the decoder's states (10_state.md R25). -/
def decoderStateNumber : DecState → Nat
  | .waitHeader => 0
  | .waitLength => 1
  | .waitData => 2
  | .waitCrc => 3
  | .ready => 4
  | .error => 5

/-- The numbers of the decoder's errors (10_state.md R26). -/
def decoderErrorNumber : DecErr → Nat
  | .none => 0
  | .invalidHeader => 1
  | .payloadTooLarge => 2
  | .checksumMismatch => 3

/-- The numbers of the registers 0x00..0x11, in the order of their register numbers (10_state.md R50). -/
def registerNumbers (s : State) : List Nat :=
  [s.crc.toNat, s.plen.toNat, s.txlen.toNat, s.txpos.toNat, decoderStateNumber s.dstate, decoderErrorNumber s.derr,
   s.dexp.toNat, s.dcnt.toNat, s.dcrc.toNat, s.rxlen.toNat, s.siglen.toNat, s.vqi.length, s.vqo.length,
   if s.feState = .fatal then 1 else 0, statusNumber s.feErr, s.feErrIdx.toNat, s.feCur.toNat, s.lastU8.toNat]

/-- One right shift of the CRC register, `step` of 40_crc.md R122 (the spec's general-knowledge form, log 14). -/
def crcStep (c : Byte) : Byte :=
  if c.toNat % 2 = 1 then (c >>> 1) ^^^ 0x8C else c >>> 1

/-- The table T as 40_crc.md R122 prints it, row by row. -/
def printedTable : List Byte :=
  [0x00, 0x5E, 0xBC, 0xE2, 0x61, 0x3F, 0xDD, 0x83, 0xC2, 0x9C, 0x7E, 0x20, 0xA3, 0xFD, 0x1F, 0x41] ++
  [0x9D, 0xC3, 0x21, 0x7F, 0xFC, 0xA2, 0x40, 0x1E, 0x5F, 0x01, 0xE3, 0xBD, 0x3E, 0x60, 0x82, 0xDC] ++
  [0x23, 0x7D, 0x9F, 0xC1, 0x42, 0x1C, 0xFE, 0xA0, 0xE1, 0xBF, 0x5D, 0x03, 0x80, 0xDE, 0x3C, 0x62] ++
  [0xBE, 0xE0, 0x02, 0x5C, 0xDF, 0x81, 0x63, 0x3D, 0x7C, 0x22, 0xC0, 0x9E, 0x1D, 0x43, 0xA1, 0xFF] ++
  [0x46, 0x18, 0xFA, 0xA4, 0x27, 0x79, 0x9B, 0xC5, 0x84, 0xDA, 0x38, 0x66, 0xE5, 0xBB, 0x59, 0x07] ++
  [0xDB, 0x85, 0x67, 0x39, 0xBA, 0xE4, 0x06, 0x58, 0x19, 0x47, 0xA5, 0xFB, 0x78, 0x26, 0xC4, 0x9A] ++
  [0x65, 0x3B, 0xD9, 0x87, 0x04, 0x5A, 0xB8, 0xE6, 0xA7, 0xF9, 0x1B, 0x45, 0xC6, 0x98, 0x7A, 0x24] ++
  [0xF8, 0xA6, 0x44, 0x1A, 0x99, 0xC7, 0x25, 0x7B, 0x3A, 0x64, 0x86, 0xD8, 0x5B, 0x05, 0xE7, 0xB9] ++
  [0x8C, 0xD2, 0x30, 0x6E, 0xED, 0xB3, 0x51, 0x0F, 0x4E, 0x10, 0xF2, 0xAC, 0x2F, 0x71, 0x93, 0xCD] ++
  [0x11, 0x4F, 0xAD, 0xF3, 0x70, 0x2E, 0xCC, 0x92, 0xD3, 0x8D, 0x6F, 0x31, 0xB2, 0xEC, 0x0E, 0x50] ++
  [0xAF, 0xF1, 0x13, 0x4D, 0xCE, 0x90, 0x72, 0x2C, 0x6D, 0x33, 0xD1, 0x8F, 0x0C, 0x52, 0xB0, 0xEE] ++
  [0x32, 0x6C, 0x8E, 0xD0, 0x53, 0x0D, 0xEF, 0xB1, 0xF0, 0xAE, 0x4C, 0x12, 0x91, 0xCF, 0x2D, 0x73] ++
  [0xCA, 0x94, 0x76, 0x28, 0xAB, 0xF5, 0x17, 0x49, 0x08, 0x56, 0xB4, 0xEA, 0x69, 0x37, 0xD5, 0x8B] ++
  [0x57, 0x09, 0xEB, 0xB5, 0x36, 0x68, 0x8A, 0xD4, 0x95, 0xCB, 0x29, 0x77, 0xF4, 0xAA, 0x48, 0x16] ++
  [0xE9, 0xB7, 0x55, 0x0B, 0x88, 0xD6, 0x34, 0x6A, 0x2B, 0x75, 0x97, 0xC9, 0x4A, 0x14, 0xF6, 0xA8] ++
  [0x74, 0x2A, 0xC8, 0x96, 0x15, 0x4B, 0xA9, 0xF7, 0xB6, 0xE8, 0x0A, 0x54, 0xD7, 0x89, 0x6B, 0x35]

/-- The registers in the order of their numbers 0x00..0x12 (10_state.md R50). -/
def registerList (s : State) : List Word :=
  (registerNumbers s).map (BitVec.ofNat 32) ++ [s.statusWord]

/-- What is wrong with SIG entry `i`, an unknown code before a malformed signature (43_field_engine.md R202). -/
def entryFailure (s : State) (i : Nat) : Option Status :=
  if 0x07 < (s.sig.read i).toNat then some .unknownFieldKind
  else if s.sig.read i = 0x07 ∧ (i = 0 ∨ s.sig.read (i - 1) ≠ 0x00) then some .malformedSignature
  else none

/-- `validate()` of 43_field_engine.md R202: the lowest failing index and its status. -/
def firstFailure (s : State) : Option (Nat × Status) :=
  (List.range s.siglen.toNat).findSome? fun i => (entryFailure s i).map fun e => (i, e)

/-- `packField` of 44_field_kinds.md R220 to R234, by the code of the kind. -/
def packField (k : Byte) (v : Value) (last : Byte) : Except Status (List Byte × Byte) :=
  match k.toNat, v with
  | 0, .word w => .ok ([w.extractLsb' 0 8], w.extractLsb' 0 8)
  | 1, .word w => .ok ([w.extractLsb' 0 8, w.extractLsb' 8 8], last)
  | 2, .word w => .ok ([w.extractLsb' 0 8, w.extractLsb' 8 8], last)
  | 3, .word w => .ok ([w.extractLsb' 0 8, w.extractLsb' 8 8, w.extractLsb' 16 8, w.extractLsb' 24 8], last)
  | 4, .word w => .ok ([w.extractLsb' 0 8, w.extractLsb' 8 8, w.extractLsb' 16 8, w.extractLsb' 24 8], last)
  | 5, .word w => .ok ([w.extractLsb' 0 8, w.extractLsb' 8 8, w.extractLsb' 16 8, w.extractLsb' 24 8], last)
  | 6, .bytes bs => .ok (bs ++ [0x00], last)
  | 7, .bytes bs => if bs.length = last.toNat then .ok (bs, last) else .error .blobLengthMismatch
  | _, _ => .error .valueKindMismatch

/-- The number that the bytes of a list make, least significant first (20_memory.md R63). -/
def littleEndian : List Byte → Nat
  | [] => 0
  | b :: bs => b.toNat + 256 * littleEndian bs

/-- `unpackField` of 44_field_kinds.md R221 to R235, by the code of the kind; `rx` is RXB[0..RXLEN). -/
def unpackField (k : Byte) (rx : List Byte) (cur : Nat) (last : Byte) : Except Status (Value × Nat × Byte) :=
  let field (n : Nat) : List Byte := (rx.drop cur).take n
  match k.toNat with
  | 0 =>
    if rx.length < cur + 1 then .error .shortBuffer
    else .ok (.word (BitVec.ofNat 32 (littleEndian (field 1))), cur + 1, BitVec.ofNat 8 (littleEndian (field 1)))
  | 1 =>
    if rx.length < cur + 2 then .error .shortBuffer
    else .ok (.word (BitVec.ofInt 32
      (if littleEndian (field 2) < 2 ^ 15 then (littleEndian (field 2) : Int)
       else (littleEndian (field 2) : Int) - 2 ^ 16)), cur + 2, last)
  | 2 =>
    if rx.length < cur + 2 then .error .shortBuffer
    else .ok (.word (BitVec.ofNat 32 (littleEndian (field 2))), cur + 2, last)
  | 6 =>
    match (rx.drop cur).findIdx? (· == 0x00) with
    | some j => .ok (.bytes (field j), cur + j + 1, last)
    | none => .ok (.bytes (rx.drop cur), rx.length, last)
  | 7 =>
    if rx.length < cur + last.toNat then .error .shortBuffer
    else .ok (.bytes (field last.toNat), cur + last.toNat, last)
  | _ =>
    if rx.length < cur + 4 then .error .shortBuffer
    else .ok (.word (BitVec.ofNat 32 (littleEndian (field 4))), cur + 4, last)

/-- The field loop of PACK (43_field_engine.md R205) over the fields that remain: the bytes and the last U8, or the
status and index of the first field that fails. -/
def packLoop (plen : Nat) : List (Byte × Value) → Nat → List Byte → Byte → Except (Status × Nat) (List Byte × Byte)
  | [], _, out, last => .ok (out, last)
  | (k, v) :: fields, i, out, last =>
    match packField k v last with
    | .error e => .error (e, i)
    | .ok (bytes, last') =>
      if 255 < plen + out.length + bytes.length then .error (.bufferFull, i)
      else packLoop plen fields (i + 1) (out ++ bytes) last'

/-- The field loop of UNPACK (43_field_engine.md R206) over the fields that remain: the values, the cursor and the last
U8, or the status and index of the first field that fails. -/
def unpackLoop (rx : List Byte) :
    List Byte → Nat → Nat → Byte → List Value → Except (Status × Nat) (List Value × Nat × Byte)
  | [], _, cur, last, res => .ok (res, cur, last)
  | k :: kinds, i, cur, last, res =>
    match unpackField k rx cur last with
    | .error e => .error (e, i)
    | .ok (v, cur', last') => unpackLoop rx kinds (i + 1) cur' last' (res ++ [v])

/-- PACK's loop over a whole state. -/
def packFields (s : State) : Except (Status × Nat) (List Byte × Byte) :=
  packLoop s.plen.toNat (s.signature.zip s.vqi) 0 [] 0x00

/-- UNPACK's loop over a whole state. -/
def unpackFields (s : State) : Except (Status × Nat) (List Value × Nat × Byte) :=
  unpackLoop s.received s.signature 0 0 0x00 []

/-- The state after a fatal error at signature index `i` (43_field_engine.md R202). -/
def halted (s : State) (e : Status) (i : Nat) : State :=
  { s with feState := .fatal, feErr := e, feErrIdx := BitVec.ofNat 6 i, run := none, out := s.out ++ [failed e] }

/-- The state after a PACK that fails at index `i` (43_field_engine.md R207). -/
def packFailed (s : State) (e : Status) (i : Nat) : State :=
  { s with feErr := e, feErrIdx := BitVec.ofNat 6 i, run := none, out := s.out ++ [failed e] }

/-- The state after an UNPACK that fails at index `i` (43_field_engine.md R207). -/
def unpackFailed (s : State) (e : Status) (i : Nat) : State :=
  { s with vqo := [], feErr := e, feErrIdx := BitVec.ofNat 6 i, run := none, out := s.out ++ [failed e] }

/-- The state with the run moved on. -/
def withRun (s : State) (r : Run) : State :=
  { s with run := some r }

/-- The statuses other than OK that a command raises, the 'raised by' column of 60_exceptions.md R260. -/
def failures : Instr → List Status
  | .regRd _ | .pbRd _ | .rxRd _ => [.badOperand]
  | .pbApp _ | .rxApp _ => [.bufferFull]
  | .encFrame => [.txBusy, .payloadTooLarge]
  | .txPop => [.txEmpty]
  | .decFeed _ => [.invalidHeader, .payloadTooLarge, .checksumMismatch, .decoderHalted, .decoderFull]
  | .decTake => [.notReady]
  | .sigClr | .vqiClr => [.feHalted]
  | .sigApp _ => [.feHalted, .sigFull]
  | .vqPushw _ | .vqPushb _ => [.feHalted, .vqFull]
  | .vqPop => [.feHalted, .vqEmpty]
  | .pack =>
    [.feHalted, .unknownFieldKind, .malformedSignature, .valueCountMismatch, .valueKindMismatch, .blobLengthMismatch,
     .bufferFull]
  | .unpack => [.feHalted, .unknownFieldKind, .malformedSignature, .shortBuffer]
  | .nop | .reset | .crcClr | .crcUpd _ | .crcRd | .pbClr | .decRst | .rxClr | .feRst
  | .u8 | .i16 | .u16 | .i32 | .u32 | .f32 | .cstr | .blob => []

/-- The state that a failing command leaves, the 'state effect' column of 60_exceptions.md R260, status by status; `i` is
the command and `idx` the index that FE_ERRIDX takes. -/
def failureEffect (s : State) (i : Instr) (idx : Nat) : Status → State
  | .invalidHeader => { s with dstate := .error, derr := .invalidHeader }
  | .payloadTooLarge => if i = .encFrame then s else { s with dstate := .error, derr := .payloadTooLarge }
  | .checksumMismatch => { s with dstate := .error, derr := .checksumMismatch }
  | .unknownFieldKind => { s with feState := .fatal, feErr := .unknownFieldKind, feErrIdx := BitVec.ofNat 6 idx }
  | .malformedSignature => { s with feState := .fatal, feErr := .malformedSignature, feErrIdx := BitVec.ofNat 6 idx }
  | .bufferFull => if i = .pack then { s with feErr := .bufferFull, feErrIdx := BitVec.ofNat 6 idx } else s
  | .valueCountMismatch => { s with feErr := .valueCountMismatch, feErrIdx := BitVec.ofNat 6 idx }
  | .valueKindMismatch => { s with feErr := .valueKindMismatch, feErrIdx := BitVec.ofNat 6 idx }
  | .blobLengthMismatch => { s with feErr := .blobLengthMismatch, feErrIdx := BitVec.ofNat 6 idx }
  | .shortBuffer => { s with vqo := [], feErr := .shortBuffer, feErrIdx := BitVec.ofNat 6 idx }
  | .ok | .decoderHalted | .decoderFull | .notReady | .txBusy | .txEmpty | .badOperand | .badCommand | .feHalted
  | .vqFull | .vqEmpty | .sigFull => s

/-- PACK has committed (43_field_engine.md R205): `t` is `s` with the packed bytes at PB[PLEN..) and the engine's
registers written, and nothing else changed. -/
def Packed (s t : State) (out : List Byte) (last : Byte) : Prop :=
  (∀ k (h : k < out.length), t.pb.read (s.plen.toNat + k) = out[k]) ∧
  (∀ a, a < s.plen.toNat ∨ s.plen.toNat + out.length ≤ a → t.pb.read a = s.pb.read a) ∧
  t.plen.toNat = s.plen.toNat + out.length ∧ t.feCur.toNat = out.length ∧
  t = { s with pb := t.pb, plen := t.plen, vqi := [], lastU8 := last, feCur := t.feCur, feErr := .ok,
               feErrIdx := s.siglen, run := none, out := s.out ++ [okay] }

/-- UNPACK has committed (43_field_engine.md R206): `t` is `s` with VQO and the engine's registers written, and nothing
else changed. -/
def Unpacked (s t : State) (res : List Value) (cur : Nat) (last : Byte) : Prop :=
  t.feCur.toNat = cur ∧
  t = { s with vqo := res, lastU8 := last, feCur := t.feCur, feErr := .ok, feErrIdx := s.siglen, run := none,
               out := s.out ++ [okay] }

/-- A value that a field kind represents (43_field_engine.md R208): upper bits zero for U8 and U16, the sign extension
of a 16-bit value for I16, no 0x00 byte for CSTR. -/
def Matches (k : Byte) (v : Value) : Prop :=
  match k.toNat, v with
  | 0, .word w => w.toNat < 2 ^ 8
  | 1, .word w => -(2 ^ 15) ≤ w.toInt ∧ w.toInt < 2 ^ 15
  | 2, .word w => w.toNat < 2 ^ 16
  | 3, .word _ => True
  | 4, .word _ => True
  | 5, .word _ => True
  | 6, .bytes bs => 0x00 ∉ bs
  | 7, .bytes _ => True
  | _, _ => False

/-- The bytes a field takes in a payload (44_field_kinds.md R237). -/
def fieldWidth (k : Byte) (v : Value) : Nat :=
  match k.toNat, v with
  | 0, _ => 1
  | 1, _ => 2
  | 2, _ => 2
  | 6, .bytes bs => bs.length + 1
  | 7, .bytes bs => bs.length
  | _, _ => 4

/-- Every BLOB value's length is the value of the U8 field before it (43_field_engine.md R208). -/
def BlobLengthsFit (fields : List (Byte × Value)) : Prop :=
  ∀ i, (fields[i + 1]?).map Prod.fst = some 0x07 →
    ∃ w bs, (fields[i]?).map Prod.snd = some (.word w) ∧ (fields[i + 1]?).map Prod.snd = some (.bytes bs) ∧
      bs.length = w.toNat

end Sys2Proof.Reference

open Sys2Proof Sys2Proof.Machine Sys2Proof.Reference

/-! ## Encoding -/

/-- Decode and encode agree (30_encoding.md sections 1 and 3): the bytes of any well-formed command, followed by any
bytes, decode to that command and leave those bytes. -/
def Obligations.DecodeReadsBackEveryCommand : Prop :=
  ∀ i : Instr, i.isCommand = true → ∀ rest, decode (encode i ++ rest) = .command i rest

/-- The other direction: what decodes to a command is that command's encoding, and the command is well formed. -/
def Obligations.CommandBytesAreUnique : Prop :=
  ∀ bs i rest, decode bs = .command i rest → i.isCommand = true ∧ bs = encode i ++ rest

/-- 30_encoding.md R89: an unassigned code is one byte, completes with BadCommand and changes no state; there are 230
of them. (Where the byte stands and where the response goes is the model's port, log 1 and log 2.) -/
def Obligations.UnassignedCodeIsBadCommand : Prop :=
  (∀ s : State, ∀ c rest, Unassigned c → s.run = none → s.inp = c :: rest →
    step s = .next { s with inp := rest, out := s.out ++ [failed .badCommand] }) ∧
  ∃ codes : List Byte, codes.Nodup ∧ codes.length = 230 ∧ ∀ c, c ∈ codes ↔ Unassigned c

/-- A step runs the decoded command: when the delivered bytes begin with a well-formed command, step takes those bytes
off the port and is exec of the command. That the bytes stand in `inp`, and that a step takes exactly the command's bytes
off its front, is the model's choice (log 1). -/
def Obligations.StepExecutesDecodedCommand : Prop :=
  ∀ (s : State) (i : Instr) (rest : List Byte), s.run = none → i.isCommand = true → s.inp = encode i ++ rest →
    step s = exec i { s with inp := rest }

/-- While a run is in progress, a step executes the SIG entry at the run's index (43_field_engine.md section 2), and
the last step commits. That State can hold a run in progress between steps is the model's choice (log 6). -/
def Obligations.StepExecutesSignatureEntry : Prop :=
  ∀ (s : State) (r : Run), s.run = some r →
    (∀ i, r.idx < s.siglen.toNat → r.idx < 32 → decodeKind (s.sig.read r.idx) = some i → step s = exec i s) ∧
    (s.siglen.toNat ≤ r.idx → step s = commitRun r s)

/-- Until all the bytes of a command have arrived, none of them included, a step answers the same state: no state
changes and no response is sent. That a waiting block's step answers the same state is the model's form (log 5), deduced
from 60_exceptions.md section 4 and 00_scope.md section 4; the port is log 1. -/
def Obligations.IncompleteCommandWaits : Prop :=
  ∀ (s : State) (i : Instr) (n : Nat), s.run = none → i.isCommand = true → n < (encode i).length →
    s.inp = (encode i).take n → step s = .next s

/-- The field-kind codes (30_encoding.md section 5): the byte of every field kind reads back as that kind, and a byte
from 0x08 up as none. -/
def Obligations.FieldKindCodesReadBack : Prop :=
  (∀ i : Instr, i.isFieldKind = true → ∃ k, encode i = [k] ∧ k.toNat < 8 ∧ decodeKind k = some i) ∧
  (∀ k : Byte, 8 ≤ k.toNat → decodeKind k = none)

/-- The code of every row of the table (30_encoding.md sections 3 and 5): the bytes of each of the 26 commands, written
out from its code and format, decode to that command whatever follows, and each of the 8 SIG bytes to its field kind. -/
def Obligations.WrittenWordsDecode : Prop :=
  (∀ rest : List Byte,
    decode (0x00 :: rest) = .command .nop rest ∧ decode (0x01 :: rest) = .command .reset rest ∧
    decode (0x10 :: rest) = .command .crcClr rest ∧ decode (0x12 :: rest) = .command .crcRd rest ∧
    decode (0x20 :: rest) = .command .pbClr rest ∧ decode (0x23 :: rest) = .command .encFrame rest ∧
    decode (0x24 :: rest) = .command .txPop rest ∧ decode (0x30 :: rest) = .command .decRst rest ∧
    decode (0x32 :: rest) = .command .decTake rest ∧ decode (0x38 :: rest) = .command .rxClr rest ∧
    decode (0x40 :: rest) = .command .feRst rest ∧ decode (0x41 :: rest) = .command .sigClr rest ∧
    decode (0x45 :: rest) = .command .vqiClr rest ∧ decode (0x46 :: rest) = .command .pack rest ∧
    decode (0x47 :: rest) = .command .unpack rest ∧ decode (0x48 :: rest) = .command .vqPop rest) ∧
  (∀ (b : Byte) (rest : List Byte),
    decode (0x02 :: b :: rest) = .command (.regRd b) rest ∧ decode (0x11 :: b :: rest) = .command (.crcUpd b) rest ∧
    decode (0x21 :: b :: rest) = .command (.pbApp b) rest ∧ decode (0x22 :: b :: rest) = .command (.pbRd b) rest ∧
    decode (0x31 :: b :: rest) = .command (.decFeed b) rest ∧ decode (0x39 :: b :: rest) = .command (.rxApp b) rest ∧
    decode (0x3A :: b :: rest) = .command (.rxRd b) rest ∧ decode (0x42 :: b :: rest) = .command (.sigApp b) rest) ∧
  (∀ (w0 w1 w2 w3 : Byte) (rest : List Byte),
    decode (0x43 :: w0 :: w1 :: w2 :: w3 :: rest) = .command (.vqPushw (w3 ++ w2 ++ w1 ++ w0 : BitVec 32)) rest) ∧
  (∀ bs rest : List Byte, bs.length ≤ 255 →
    decode (0x44 :: BitVec.ofNat 8 bs.length :: (bs ++ rest)) = .command (.vqPushb bs) rest) ∧
  decodeKind 0x00 = some .u8 ∧ decodeKind 0x01 = some .i16 ∧ decodeKind 0x02 = some .u16 ∧
  decodeKind 0x03 = some .i32 ∧ decodeKind 0x04 = some .u32 ∧ decodeKind 0x05 = some .f32 ∧
  decodeKind 0x06 = some .cstr ∧ decodeKind 0x07 = some .blob

/-- 30_encoding.md R86 and R87 (with the codes of 60_exceptions.md R260): the bytes of a response are the status byte
and, on OK only, the result: a byte, a word least significant byte first, or a tagged value. -/
def Obligations.ResponseBytes : Prop :=
  (∀ e, Response.toBytes { status := e, result := .none } = [BitVec.ofNat 8 (statusNumber e)]) ∧
  (∀ b, Response.toBytes { status := .ok, result := .byte b } = [0x00, b]) ∧
  (∀ w : Word, Response.toBytes { status := .ok, result := .word w } =
    [0x00, w.extractLsb' 0 8, w.extractLsb' 8 8, w.extractLsb' 16 8, w.extractLsb' 24 8]) ∧
  (∀ w : Word, Response.toBytes { status := .ok, result := .value (.word w) } =
    [0x00, 0x00, w.extractLsb' 0 8, w.extractLsb' 8 8, w.extractLsb' 16 8, w.extractLsb' 24 8]) ∧
  (∀ bs : List Byte, bs.length ≤ 255 → Response.toBytes { status := .ok, result := .value (.bytes bs) } =
    [0x00, 0x01, BitVec.ofNat 8 bs.length] ++ bs) ∧
  ∀ (s t : State) (i : Instr) (r : Response), i.isFieldKind = false → s.run = none → exec i s = .next t →
    t.out = s.out ++ [r] → r.status ≠ .ok → r.toBytes = [BitVec.ofNat 8 (statusNumber r.status)]

/-! ## CRC unit -/

/-- CRC.CLR writes 0x00 to CRC; CRC.UPD folds one byte into CRC; CRC.RD returns CRC and writes nothing (40_crc.md
section 2). After CRC.CLR and one CRC.UPD per byte, sent as command bytes and stepped, CRC is the checksum of the bytes:
the sentence that 40_crc.md section 2 marks derived. (The port is log 1 and log 2.) -/
def Obligations.CrcUnitFoldsBytes : Prop :=
  (∀ (s : State) (b : Byte),
    exec .crcClr s = .next { s with crc := 0x00, out := s.out ++ [okay] } ∧
    exec (.crcUpd b) s = .next { s with crc := crcTable (s.crc ^^^ b), out := s.out ++ [okay] } ∧
    exec .crcRd s = .next { s with out := s.out ++ [{ status := .ok, result := .byte s.crc }] }) ∧
  ∀ (s : State) (bs : List Byte), s.run = none → s.inp = commandBytes (.crcClr :: bs.map .crcUpd) →
    runSteps (bs.length + 1) s =
      .next { s with crc := crc8 bs, inp := [], out := s.out ++ List.replicate (bs.length + 1) okay }

/-- The checksum (40_crc.md section 1; its form is the spec's general-knowledge passage, log 14): entry i of the table T
is eight shifts of i, and is the i-th of the 256 printed values; crc8 starts at 0x00 and looks T up once per byte, which
is the bit-serial form; and the laws of the empty list, one byte, zeros, increments and the residue. -/
def Obligations.ChecksumLaws : Prop :=
  (∀ i : Byte, crcTable i = crcStep^[8] i) ∧
  printedTable.length = 256 ∧ (∀ i : Byte, printedTable[i.toNat]? = some (crcTable i)) ∧
  crc8 [] = 0x00 ∧ (∀ bs b, crc8 (bs ++ [b]) = crcTable (crc8 bs ^^^ b)) ∧
  (∀ bs, crc8 bs = bs.foldl (fun c b => crcStep^[8] (c ^^^ b)) 0x00) ∧
  (∀ b, crc8 [b] = crcTable b) ∧ (∀ n, crc8 (List.replicate n 0x00) = 0x00) ∧
  (∀ a b, crc8 (a ++ b) = b.foldl (fun c x => crcTable (c ^^^ x)) (crc8 a)) ∧ ∀ p, crc8 (p ++ [crc8 p]) = 0x00

/-! ## Frame encoder -/

/-- 41_frame_encoder.md R140 and R142: PB.CLR writes 0 to PLEN; PB.RD returns PB[i] for i < PLEN and BadOperand
otherwise, and writes nothing. -/
def Obligations.PayloadClearAndRead : Prop :=
  ∀ s : State,
    exec .pbClr s = .next { s with plen := 0, out := s.out ++ [okay] } ∧
    ∀ i : Byte,
      (i.toNat < s.plen.toNat → exec (.pbRd i) s =
        .next { s with out := s.out ++ [{ status := .ok, result := .byte (s.pb.read i.toNat) }] }) ∧
      (s.plen.toNat ≤ i.toNat → exec (.pbRd i) s = .next { s with out := s.out ++ [failed .badOperand] })

/-- 41_frame_encoder.md R141: PB.APP puts the byte at PB[PLEN] and increments PLEN, and changes nothing else; with PLEN
= 255 it is refused with BufferFull and no state change. -/
def Obligations.PayloadAppend : Prop :=
  ∀ (s : State) (b : Byte),
    (s.plen.toNat = 255 → exec (.pbApp b) s = .next { s with out := s.out ++ [failed .bufferFull] }) ∧
    (s.plen.toNat ≠ 255 → ∃ t, exec (.pbApp b) s = .next t ∧
      t.pb.read s.plen.toNat = b ∧ (∀ a, a ≠ s.plen.toNat → t.pb.read a = s.pb.read a) ∧
      t.plen.toNat = s.plen.toNat + 1 ∧ t = { s with pb := t.pb, plen := t.plen, out := s.out ++ [okay] })

/-- 41_frame_encoder.md R145: ENC.FRAME is refused with TxBusy while a frame is pending, then with PayloadTooLarge when
PLEN > 32; else TXB holds start byte, length, payload and checksum, TXLEN = PLEN + 3, TXPOS = 0, and nothing else
changes. -/
def Obligations.EncodeFrame : Prop :=
  ∀ s : State,
    (s.txpos.toNat < s.txlen.toNat → exec .encFrame s = .next { s with out := s.out ++ [failed .txBusy] }) ∧
    (s.txlen.toNat ≤ s.txpos.toNat → 32 < s.plen.toNat →
      exec .encFrame s = .next { s with out := s.out ++ [failed .payloadTooLarge] }) ∧
    (s.txlen.toNat ≤ s.txpos.toNat → s.plen.toNat ≤ 32 → ∃ t, exec .encFrame s = .next t ∧
      t.frame = [0xD5, s.plen] ++ s.payload ++ [crc8 s.payload] ∧
      (∀ a, s.plen.toNat + 3 ≤ a → t.txb.read a = s.txb.read a) ∧ t.txlen.toNat = s.plen.toNat + 3 ∧
      t = { s with txb := t.txb, txlen := t.txlen, txpos := 0, out := s.out ++ [okay] })

/-- 41_frame_encoder.md R146: TX.POP returns TXB[TXPOS] and increments TXPOS; with TXPOS = TXLEN it is refused with
TxEmpty and no state change. (TXPOS < 35 in every state where TXPOS ≠ TXLEN is legal, 10_state.md R24.) -/
def Obligations.TransmitPop : Prop :=
  ∀ s : State,
    (s.txpos = s.txlen → exec .txPop s = .next { s with out := s.out ++ [failed .txEmpty] }) ∧
    (s.txpos ≠ s.txlen → s.txpos.toNat < 35 → ∃ t, exec .txPop s = .next t ∧
      t.txpos.toNat = s.txpos.toNat + 1 ∧
      t = { s with txpos := t.txpos,
                   out := s.out ++ [{ status := .ok, result := .byte (s.txb.read s.txpos.toNat) }] })

/-- SEND (30_encoding.md section 6) with one more TX.POP (41_frame_encoder.md section 3): with no frame pending and
PLEN ≤ 32, the bytes popped are the frame of the payload in order, and then the transmit buffer is empty. -/
def Obligations.SendPopsTheEncodedFrame : Prop :=
  ∀ s : State, s.run = none → s.txlen.toNat ≤ s.txpos.toNat → s.plen.toNat ≤ 32 →
    s.inp = commandBytes (send s.plen.toNat ++ [.txPop]) →
    ∃ t, runSteps (s.plen.toNat + 5) s = .next t ∧
      t.out = s.out ++ okay ::
        ([0xD5, s.plen] ++ s.payload ++ [crc8 s.payload]).map (fun b => { status := .ok, result := .byte b }) ++
        [failed .txEmpty] ∧
      t = { s with txb := t.txb, txlen := t.txlen, txpos := t.txlen, inp := [], out := t.out }

/-! ## Frame decoder -/

/-- 42_frame_decoder.md R160 to R165: DEC.FEED in every state but ERROR, row by row of the transition table, each with
all it writes. In WAIT_DATA the statement is for DCNT < 32 (10_state.md R20: DCNT is at most DEXP, DEXP at most 32). -/
def Obligations.DecFeedFollowsTransitionTable : Prop :=
  ∀ (s : State) (b : Byte),
    (s.dstate = .waitHeader → b = 0xD5 →
      exec (.decFeed b) s = .next { s with dstate := .waitLength, out := s.out ++ [okay] }) ∧
    (s.dstate = .waitHeader → b ≠ 0xD5 → exec (.decFeed b) s =
      .next { s with dstate := .error, derr := .invalidHeader, out := s.out ++ [failed .invalidHeader] }) ∧
    (s.dstate = .waitLength → b ≠ 0 → b.toNat ≤ 32 → exec (.decFeed b) s =
      .next { s with dstate := .waitData, dexp := b, dcnt := 0, dcrc := 0, out := s.out ++ [okay] }) ∧
    (s.dstate = .waitLength → b = 0 → exec (.decFeed b) s =
      .next { s with dstate := .waitCrc, dexp := 0, dcnt := 0, dcrc := 0, out := s.out ++ [okay] }) ∧
    (s.dstate = .waitLength → 32 < b.toNat → exec (.decFeed b) s =
      .next { s with dstate := .error, derr := .payloadTooLarge, out := s.out ++ [failed .payloadTooLarge] }) ∧
    (s.dstate = .waitData → s.dcnt.toNat < 32 → ∃ t, exec (.decFeed b) s = .next t ∧
      t.db.read s.dcnt.toNat = b ∧ (∀ a, a ≠ s.dcnt.toNat → t.db.read a = s.db.read a) ∧
      t.dcnt.toNat = s.dcnt.toNat + 1 ∧ t.dcrc = crcTable (s.dcrc ^^^ b) ∧
      t.dstate = (if s.dcnt.toNat + 1 = s.dexp.toNat then .waitCrc else .waitData) ∧
      t = { s with db := t.db, dcnt := t.dcnt, dcrc := t.dcrc, dstate := t.dstate, out := s.out ++ [okay] }) ∧
    (s.dstate = .waitCrc → b = s.dcrc →
      exec (.decFeed b) s = .next { s with dstate := .ready, out := s.out ++ [okay] }) ∧
    (s.dstate = .waitCrc → b ≠ s.dcrc → exec (.decFeed b) s =
      .next { s with dstate := .error, derr := .checksumMismatch, out := s.out ++ [failed .checksumMismatch] }) ∧
    (s.dstate = .ready → exec (.decFeed b) s = .next { s with out := s.out ++ [failed .decoderFull] })

/-- 42_frame_decoder.md R166: in ERROR every DEC.FEED is refused with DecoderHalted and no state change, and no
instruction but DEC.RST and RESET leaves ERROR; those two do. -/
def Obligations.OnlyResetLeavesDecoderError : Prop :=
  ∀ s : State, s.dstate = .error →
    (∀ b, exec (.decFeed b) s = .next { s with out := s.out ++ [failed .decoderHalted] }) ∧
    (∀ i t, exec i s = .next t → i ≠ .decRst → i ≠ .reset →
      t.dstate = .error ∧ t.derr = s.derr ∧ t.dexp = s.dexp ∧ t.dcnt = s.dcnt ∧ t.dcrc = s.dcrc ∧ t.db = s.db) ∧
    (∃ t, exec .decRst s = .next t ∧ t.dstate = .waitHeader) ∧ ∃ t, exec .reset s = .next t ∧ t.dstate = .waitHeader

/-- 42_frame_decoder.md R169: no sequence of bytes fed moves the decoder out of ERROR, and WAIT_HEADER does not skip a
byte other than 0xD5: whatever follows such a byte is refused. -/
def Obligations.DecoderNeverResynchronises : Prop :=
  (∀ (s : State) (bs : List Byte), s.run = none → s.dstate = .error → s.inp = commandBytes (decFeeds bs) →
    runSteps bs.length s =
      .next { s with inp := [], out := s.out ++ List.replicate bs.length (failed .decoderHalted) }) ∧
  ∀ (s : State) (b : Byte) (bs : List Byte), s.run = none → s.dstate = .waitHeader → b ≠ 0xD5 →
    s.inp = commandBytes (decFeeds (b :: bs)) →
    runSteps (bs.length + 1) s =
      .next { s with dstate := .error, derr := .invalidHeader, inp := [],
                     out := s.out ++ failed .invalidHeader :: List.replicate bs.length (failed .decoderHalted) }

/-- 42_frame_decoder.md R167 and R168: DEC.TAKE in READY copies DB[0..DEXP) to RXB, sets RXLEN and resets the decoder
registers (for DEXP ≤ 32, 10_state.md R20); in any other state it is refused with NotReady and no state change.
DEC.RST resets the decoder registers in every state. Nothing else changes. -/
def Obligations.TakeAndResetDecoder : Prop :=
  ∀ s : State,
    (s.dstate = .ready → s.dexp.toNat ≤ 32 → ∃ t, exec .decTake s = .next t ∧
      (∀ a, a < s.dexp.toNat → t.rxb.read a = s.db.read a) ∧
      (∀ a, s.dexp.toNat ≤ a → t.rxb.read a = s.rxb.read a) ∧
      t = { s with rxb := t.rxb, rxlen := s.dexp, dstate := .waitHeader, derr := .none, dexp := 0, dcnt := 0,
                   dcrc := 0, out := s.out ++ [okay] }) ∧
    (s.dstate ≠ .ready → exec .decTake s = .next { s with out := s.out ++ [failed .notReady] }) ∧
    exec .decRst s = .next { s with dstate := .waitHeader, derr := .none, dexp := 0, dcnt := 0, dcrc := 0,
                                    out := s.out ++ [okay] }

/-- 42_frame_decoder.md R170 and R172: RX.CLR writes 0 to RXLEN; RX.RD returns RXB[i] for i < RXLEN and BadOperand
otherwise, and writes nothing. -/
def Obligations.ReceiveClearAndRead : Prop :=
  ∀ s : State,
    exec .rxClr s = .next { s with rxlen := 0, out := s.out ++ [okay] } ∧
    ∀ i : Byte,
      (i.toNat < s.rxlen.toNat → exec (.rxRd i) s =
        .next { s with out := s.out ++ [{ status := .ok, result := .byte (s.rxb.read i.toNat) }] }) ∧
      (s.rxlen.toNat ≤ i.toNat → exec (.rxRd i) s = .next { s with out := s.out ++ [failed .badOperand] })

/-- 42_frame_decoder.md R171: RX.APP puts the byte at RXB[RXLEN] and increments RXLEN, and changes nothing else; with
RXLEN = 255 it is refused with BufferFull and no state change. -/
def Obligations.ReceiveAppend : Prop :=
  ∀ (s : State) (b : Byte),
    (s.rxlen.toNat = 255 → exec (.rxApp b) s = .next { s with out := s.out ++ [failed .bufferFull] }) ∧
    (s.rxlen.toNat ≠ 255 → ∃ t, exec (.rxApp b) s = .next t ∧
      t.rxb.read s.rxlen.toNat = b ∧ (∀ a, a ≠ s.rxlen.toNat → t.rxb.read a = s.rxb.read a) ∧
      t.rxlen.toNat = s.rxlen.toNat + 1 ∧ t = { s with rxb := t.rxb, rxlen := t.rxlen, out := s.out ++ [okay] })

/-- The frame round trip (42_frame_decoder.md section 4): from WAIT_HEADER, feeding the frame of any payload of at most
32 bytes as command bytes gives OK each time, and DEC.TAKE then leaves that payload in RXB[0..RXLEN) and the decoder in
WAIT_HEADER. -/
def Obligations.FrameRoundTrip : Prop :=
  ∀ (s : State) (p : List Byte), s.run = none → s.dstate = .waitHeader → s.derr = .none → p.length ≤ 32 →
    s.inp = commandBytes (decFeeds (frameOf p) ++ [.decTake]) →
    ∃ t, runSteps (p.length + 4) s = .next t ∧ t.received = p ∧
      t.out = s.out ++ List.replicate (p.length + 4) okay ∧
      t = { s with rxb := t.rxb, rxlen := t.rxlen, db := t.db, dexp := 0, dcnt := 0, dcrc := 0, inp := [],
                   out := t.out }

/-- The decoder fails fast (42_frame_decoder.md section 4): after a well-formed header and payload, a checksum byte
other than the payload's gives ChecksumMismatch at that byte; 0xD5 and a length above 32 gives PayloadTooLarge at the
length byte. The decoder is then in ERROR. -/
def Obligations.DecoderFailsFast : Prop :=
  ∀ s : State, s.run = none → s.dstate = .waitHeader →
    (∀ (p : List Byte) (c : Byte), p.length ≤ 32 → c ≠ crc8 p →
      s.inp = commandBytes (decFeeds ([0xD5, BitVec.ofNat 8 p.length] ++ p ++ [c])) →
      ∃ t, runSteps (p.length + 3) s = .next t ∧ t.dstate = .error ∧ t.derr = .checksumMismatch ∧
        t.out = s.out ++ List.replicate (p.length + 2) okay ++ [failed .checksumMismatch]) ∧
    ∀ n : Byte, 32 < n.toNat → s.inp = commandBytes (decFeeds [0xD5, n]) →
      ∃ t, runSteps 2 s = .next t ∧ t.dstate = .error ∧ t.derr = .payloadTooLarge ∧
        t.out = s.out ++ [okay, failed .payloadTooLarge]

/-! ## Field engine -/

/-- 43_field_engine.md R190, R191, R195: FE.RST resets all field-engine state in every state; SIG.CLR writes 0 to
SIGLEN and VQI.CLR empties VQI, behind the halted gate. Nothing else changes. -/
def Obligations.FieldEngineClears : Prop :=
  ∀ s : State,
    exec .feRst s = .next { s with siglen := 0, vqi := [], vqo := [], feState := .idle, feErr := .ok, feErrIdx := 0,
                                   feCur := 0, lastU8 := 0, run := none, out := s.out ++ [okay] } ∧
    (s.feState = .idle → exec .sigClr s = .next { s with siglen := 0, out := s.out ++ [okay] }) ∧
    (s.feState = .fatal → exec .sigClr s = .next { s with out := s.out ++ [failed .feHalted] }) ∧
    (s.feState = .idle → exec .vqiClr s = .next { s with vqi := [], out := s.out ++ [okay] }) ∧
    (s.feState = .fatal → exec .vqiClr s = .next { s with out := s.out ++ [failed .feHalted] })

/-- 43_field_engine.md R192: SIG.APP stores any byte at SIG[SIGLEN] and increments SIGLEN; it is refused with SigFull
when SIGLEN = 32, and with FeHalted while the engine is halted. -/
def Obligations.SignatureAppend : Prop :=
  ∀ (s : State) (k : Byte),
    (s.feState = .fatal → exec (.sigApp k) s = .next { s with out := s.out ++ [failed .feHalted] }) ∧
    (s.feState = .idle → s.siglen.toNat = 32 →
      exec (.sigApp k) s = .next { s with out := s.out ++ [failed .sigFull] }) ∧
    (s.feState = .idle → s.siglen.toNat < 32 → ∃ t, exec (.sigApp k) s = .next t ∧
      t.sig.read s.siglen.toNat = k ∧ (∀ a, a ≠ s.siglen.toNat → t.sig.read a = s.sig.read a) ∧
      t.siglen.toNat = s.siglen.toNat + 1 ∧ t = { s with sig := t.sig, siglen := t.siglen, out := s.out ++ [okay] })

/-- 43_field_engine.md R193 and R194: VQ.PUSHW and VQ.PUSHB append their value at the tail of VQI; they are refused
with VqFull when VQI holds 32 values, and with FeHalted while the engine is halted. -/
def Obligations.ValuePush : Prop :=
  ∀ (s : State) (w : Word) (bs : List Byte),
    (s.feState = .fatal →
      exec (.vqPushw w) s = .next { s with out := s.out ++ [failed .feHalted] } ∧
      exec (.vqPushb bs) s = .next { s with out := s.out ++ [failed .feHalted] }) ∧
    (s.feState = .idle → s.vqi.length = 32 →
      exec (.vqPushw w) s = .next { s with out := s.out ++ [failed .vqFull] } ∧
      exec (.vqPushb bs) s = .next { s with out := s.out ++ [failed .vqFull] }) ∧
    (s.feState = .idle → s.vqi.length ≠ 32 →
      exec (.vqPushw w) s = .next { s with vqi := s.vqi ++ [.word w], out := s.out ++ [okay] } ∧
      exec (.vqPushb bs) s = .next { s with vqi := s.vqi ++ [.bytes bs], out := s.out ++ [okay] })

/-- 43_field_engine.md R196: VQ.POP removes and returns the head of VQO; it is refused with VqEmpty when VQO is empty,
and with FeHalted while the engine is halted. -/
def Obligations.ValuePop : Prop :=
  ∀ s : State,
    (s.feState = .fatal → exec .vqPop s = .next { s with out := s.out ++ [failed .feHalted] }) ∧
    (s.feState = .idle → s.vqo = [] → exec .vqPop s = .next { s with out := s.out ++ [failed .vqEmpty] }) ∧
    ∀ v vs, s.feState = .idle → s.vqo = v :: vs →
      exec .vqPop s = .next { s with vqo := vs, out := s.out ++ [{ status := .ok, result := .value v }] }

/-- 43_field_engine.md R200: while the engine is halted, the gated commands complete with FeHalted and change no state.
No other instruction ever completes with FeHalted. -/
def Obligations.HaltedGate : Prop :=
  (∀ (s : State) (i : Instr), s.feState = .fatal → i.isGated = true →
    exec i s = .next { s with out := s.out ++ [failed .feHalted] }) ∧
  ∀ (s t : State) (i : Instr), i.isGated = false → exec i s = .next t →
    t.out = s.out ∨ ∃ r, t.out = s.out ++ [r] ∧ r.status ≠ .feHalted

/-- 43_field_engine.md R202: a PACK or UNPACK of an engine that is not halted reports the lowest failing index of the
signature, an unknown code before malformation, and halts the engine writing FE_STATE, FE_ERR and FE_ERRIDX only. -/
def Obligations.ValidationHaltsAtLowestIndex : Prop :=
  ∀ (s : State) (i : Nat) (e : Status), s.feState = .idle → s.siglen.toNat ≤ 32 → i < s.siglen.toNat →
    entryFailure s i = some e → (∀ j, j < i → entryFailure s j = none) →
    exec .pack s = .next (halted s e i) ∧ exec .unpack s = .next (halted s e i)

/-- 43_field_engine.md R203: after validation, PACK needs one value per field; otherwise it writes FE_ERR and
FE_ERRIDX = min(|VQI|, SIGLEN) only and completes with ValueCountMismatch. -/
def Obligations.PackNeedsOneValuePerField : Prop :=
  ∀ s : State, s.feState = .idle → s.siglen.toNat ≤ 32 → firstFailure s = none → s.vqi.length ≠ s.siglen.toNat →
    exec .pack s = .next (packFailed s .valueCountMismatch (min s.vqi.length s.siglen.toNat))

/-- 43_field_engine.md R205: PACK is its pseudocode: the gate, the validation, the count, the field loop, and the
commit. -/
def Obligations.PackFollowsPseudocode : Prop :=
  ∀ s : State, s.siglen.toNat ≤ 32 → ∃ t, exec .pack s = .next t ∧
    if s.feState = .fatal then t = { s with out := s.out ++ [failed .feHalted] }
    else match firstFailure s with
      | some (i, e) => t = halted s e i
      | none =>
        if s.vqi.length ≠ s.siglen.toNat then
          t = packFailed s .valueCountMismatch (min s.vqi.length s.siglen.toNat)
        else match packFields s with
          | .error (e, i) => t = packFailed s e i
          | .ok (out, last) => Packed s t out last

/-- PACK completes (43_field_engine.md section 2): when the engine is idle, the signature is well formed, there is one
value per field and every field packs, PACK commits the bytes of all fields. -/
def Obligations.PackCommitsEveryField : Prop :=
  ∀ (s : State) (out : List Byte) (last : Byte), s.feState = .idle → s.siglen.toNat ≤ 32 → firstFailure s = none →
    s.vqi.length = s.siglen.toNat → packFields s = .ok (out, last) →
    ∃ t, exec .pack s = .next t ∧ t.payload = s.payload ++ out ∧ Packed s t out last

/-- 43_field_engine.md R206: UNPACK is its pseudocode: the gate, the validation, the field loop, and the commit. -/
def Obligations.UnpackFollowsPseudocode : Prop :=
  ∀ s : State, s.siglen.toNat ≤ 32 → ∃ t, exec .unpack s = .next t ∧
    if s.feState = .fatal then t = { s with out := s.out ++ [failed .feHalted] }
    else match firstFailure s with
      | some (i, e) => t = halted s e i
      | none =>
        match unpackFields s with
        | .error (e, i) => t = unpackFailed s e i
        | .ok (res, cur, last) => Unpacked s t res cur last

/-- UNPACK completes (43_field_engine.md section 2): when the engine is idle, the signature is well formed and RXB is
long enough for every field, UNPACK commits one value per field, and FE_CUR is within RXLEN. -/
def Obligations.UnpackCommitsEveryField : Prop :=
  ∀ (s : State) (res : List Value) (cur : Nat) (last : Byte), s.feState = .idle → s.siglen.toNat ≤ 32 →
    firstFailure s = none → unpackFields s = .ok (res, cur, last) →
    ∃ t, exec .unpack s = .next t ∧ t.vqo.length = s.siglen.toNat ∧ cur ≤ s.rxlen.toNat ∧ Unpacked s t res cur last

/-- 43_field_engine.md R207: a PACK that fails in its count or in a field writes FE_ERR and FE_ERRIDX only; an UNPACK
that fails writes VQO (emptied), FE_ERR and FE_ERRIDX only; the engine stays idle. -/
def Obligations.FailedRunCommitsNothing : Prop :=
  ∀ s : State, s.feState = .idle → s.siglen.toNat ≤ 32 → firstFailure s = none →
    (s.vqi.length ≠ s.siglen.toNat → ∃ t, exec .pack s = .next t ∧
      t = { s with feErr := .valueCountMismatch, feErrIdx := t.feErrIdx, run := none,
                   out := s.out ++ [failed .valueCountMismatch] }) ∧
    (∀ e i, s.vqi.length = s.siglen.toNat → packFields s = .error (e, i) →
      (e = .valueKindMismatch ∨ e = .blobLengthMismatch ∨ e = .bufferFull) ∧ i < s.siglen.toNat ∧
      exec .pack s = .next { s with feErr := e, feErrIdx := BitVec.ofNat 6 i, run := none,
                                    out := s.out ++ [failed e] }) ∧
    (∀ e i, unpackFields s = .error (e, i) →
      e = .shortBuffer ∧ i < s.siglen.toNat ∧
      exec .unpack s = .next { s with vqo := [], feErr := e, feErrIdx := BitVec.ofNat 6 i, run := none,
                                      out := s.out ++ [failed e] })

/-- The field codec's round trip (43_field_engine.md section 2): for a well-formed signature, matching values, fitting
BLOB lengths and a packed length of at most 255, PACK from PLEN = 0 succeeds, and an UNPACK of those bytes by the same
signature gives back the values and consumes all the bytes. -/
def Obligations.FieldRoundTrip : Prop :=
  ∀ s r : State, s.feState = .idle → s.siglen.toNat ≤ 32 → firstFailure s = none →
    s.vqi.length = s.siglen.toNat → s.plen = 0 →
    (∀ f ∈ s.signature.zip s.vqi, Matches f.1 f.2) → BlobLengthsFit (s.signature.zip s.vqi) →
    ((s.signature.zip s.vqi).map fun f => fieldWidth f.1 f.2).sum ≤ 255 →
    ∃ t, exec .pack s = .next t ∧ t.out = s.out ++ [okay] ∧
      (r.feState = .idle → r.siglen = s.siglen → r.signature = s.signature → r.received = t.payload →
        ∃ u, exec .unpack r = .next u ∧ u.out = r.out ++ [okay] ∧ u.vqo = s.vqi ∧ u.feCur = r.rxlen)

/-- A run is its microinstructions (43_field_engine.md section 2). That State can hold a run in progress, which step
moves on by one entry, is the model's choice (log 6): with nothing waiting at the port, beginning a run and stepping the
machine through the signature's entries and the commit gives what PACK or UNPACK gives in one command. After a run is
abandoned the remaining steps wait at the empty port, which is the model's form too (log 5). -/
def Obligations.RunIsItsMicrosteps : Prop :=
  ∀ s : State, s.feState = .idle → s.siglen.toNat ≤ 32 → validate s.signature = none → s.inp = [] →
    (s.vqi.length = s.siglen.toNat → runSteps (s.siglen.toNat + 1) (s.beginRun .pack) = exec .pack s) ∧
    runSteps (s.siglen.toNat + 1) (s.beginRun .unpack) = exec .unpack s

/-- The LAST_U8 of an earlier run has no effect on a later one (70_reset_and_hazards.md section 3): two states that
differ in LAST_U8 only give next states that differ in LAST_U8 only. -/
def Obligations.EarlierLastU8HasNoEffect : Prop :=
  ∀ (s : State) (x : Byte), s.siglen.toNat ≤ 32 →
    (∃ t t', exec .pack s = .next t ∧ exec .pack { s with lastU8 := x } = .next t' ∧
      t' = { t with lastU8 := t'.lastU8 } ∧ (s.feState = .idle → t.feErr = .ok → t' = t)) ∧
    (∃ t t', exec .unpack s = .next t ∧ exec .unpack { s with lastU8 := x } = .next t' ∧
      t' = { t with lastU8 := t'.lastU8 } ∧ (s.feState = .idle → t.feErr = .ok → t' = t))

/-- The loading pseudo-instructions (30_encoding.md section 6): PB.LOAD, RX.LOAD and SIG.LOAD, sent as command bytes
and stepped, leave exactly the listed bytes in the payload, the receive buffer and (for an idle engine) the signature,
and change no other unit. -/
def Obligations.LoadingLeavesTheListedBytes : Prop :=
  ∀ (s : State) (bs : List Byte), s.run = none →
    (bs.length ≤ 255 → s.inp = commandBytes (pbLoad bs) → ∃ t, runSteps (bs.length + 1) s = .next t ∧
      t.payload = bs ∧ t = { s with pb := t.pb, plen := t.plen, inp := [],
                                    out := s.out ++ List.replicate (bs.length + 1) okay }) ∧
    (bs.length ≤ 255 → s.inp = commandBytes (rxLoad bs) → ∃ t, runSteps (bs.length + 1) s = .next t ∧
      t.received = bs ∧ t = { s with rxb := t.rxb, rxlen := t.rxlen, inp := [],
                                     out := s.out ++ List.replicate (bs.length + 1) okay }) ∧
    (s.feState = .idle → bs.length ≤ 32 → s.inp = commandBytes (sigLoad bs) →
      ∃ t, runSteps (bs.length + 1) s = .next t ∧
        t.signature = bs ∧ t = { s with sig := t.sig, siglen := t.siglen, inp := [],
                                        out := s.out ++ List.replicate (bs.length + 1) okay })

/-! ## Field kinds -/

/-- 44_field_kinds.md R220, R222, R224, R226, R228, R230: in a PACK run whose field has a Word and whose bytes fit, each
numeric kind appends its bytes and moves the run on; U8 also sets `last`. With Bytes the run is abandoned with
ValueKindMismatch. -/
def Obligations.NumericPackSteps : Prop :=
  ∀ (s : State) (r : Run), s.run = some r → r.mode = .pack →
    (∀ w, s.vqi[r.idx]? = some (.word w) →
      (s.plen.toNat + r.out.length + 1 ≤ 255 → exec .u8 s = .next (withRun s
      { r with idx := r.idx + 1, out := r.out ++ [w.extractLsb' 0 8], last := w.extractLsb' 0 8 })) ∧
      (s.plen.toNat + r.out.length + 2 ≤ 255 → ∀ i, i = .i16 ∨ i = .u16 → exec i s = .next (withRun s
      { r with idx := r.idx + 1, out := r.out ++ [w.extractLsb' 0 8, w.extractLsb' 8 8] })) ∧
      (s.plen.toNat + r.out.length + 4 ≤ 255 → ∀ i, i = .i32 ∨ i = .u32 ∨ i = .f32 →
        exec i s = .next (withRun s
      { r with
          idx := r.idx + 1
          out := r.out ++ [w.extractLsb' 0 8, w.extractLsb' 8 8, w.extractLsb' 16 8, w.extractLsb' 24 8] }))) ∧
    (∀ bs, s.vqi[r.idx]? = some (.bytes bs) →
      ∀ i, i = .u8 ∨ i = .i16 ∨ i = .u16 ∨ i = .i32 ∨ i = .u32 ∨ i = .f32 →
        exec i s = .next (packFailed s .valueKindMismatch r.idx))

/-- 44_field_kinds.md R221, R223, R225, R227, R229, R231: in an UNPACK run with enough bytes left, each numeric kind
appends its value (zero-extended, sign-extended for I16) and moves cursor and run on; U8 also sets `last`. With too few
bytes the run is abandoned with ShortBuffer. -/
def Obligations.NumericUnpackSteps : Prop :=
  ∀ (s : State) (r : Run), s.run = some r → r.mode = .unpack →
    (∀ b, s.received[r.cur]? = some b → exec .u8 s = .next (withRun s
      { r with idx := r.idx + 1, cur := r.cur + 1, last := b, res := r.res ++ [.word (b.setWidth 32)] })) ∧
    (∀ b0 b1, s.received[r.cur]? = some b0 → s.received[r.cur + 1]? = some b1 →
      exec .i16 s = .next (withRun s
      { r with idx := r.idx + 1, cur := r.cur + 2, res := r.res ++ [.word ((b1 ++ b0 : BitVec 16).signExtend 32)] }) ∧
      exec .u16 s = .next (withRun s
      { r with idx := r.idx + 1, cur := r.cur + 2, res := r.res ++ [.word ((b1 ++ b0 : BitVec 16).setWidth 32)] })) ∧
    (∀ b0 b1 b2 b3, s.received[r.cur]? = some b0 → s.received[r.cur + 1]? = some b1 →
      s.received[r.cur + 2]? = some b2 → s.received[r.cur + 3]? = some b3 →
      ∀ i, i = .i32 ∨ i = .u32 ∨ i = .f32 → exec i s = .next (withRun s
      { r with idx := r.idx + 1, cur := r.cur + 4, res := r.res ++ [.word (b3 ++ b2 ++ b1 ++ b0 : BitVec 32)] })) ∧
    (s.rxlen.toNat < r.cur + 1 → exec .u8 s = .next (unpackFailed s .shortBuffer r.idx)) ∧
    (s.rxlen.toNat < r.cur + 2 → ∀ i, i = .i16 ∨ i = .u16 →
      exec i s = .next (unpackFailed s .shortBuffer r.idx)) ∧
    (s.rxlen.toNat < r.cur + 4 → ∀ i, i = .i32 ∨ i = .u32 ∨ i = .f32 →
      exec i s = .next (unpackFailed s .shortBuffer r.idx))

/-- 44_field_kinds.md R232 and R234: in a PACK run with room, CSTR appends the bytes and one 0x00, and BLOB the bytes
when their number is `last`; a BLOB of another length is abandoned with BlobLengthMismatch, a Word with
ValueKindMismatch. -/
def Obligations.StringPackSteps : Prop :=
  ∀ (s : State) (r : Run), s.run = some r → r.mode = .pack →
    (∀ bs, s.vqi[r.idx]? = some (.bytes bs) →
      (s.plen.toNat + r.out.length + bs.length + 1 ≤ 255 → exec .cstr s = .next (withRun s
      { r with idx := r.idx + 1, out := r.out ++ bs ++ [0x00] })) ∧
      (bs.length = r.last.toNat → s.plen.toNat + r.out.length + bs.length ≤ 255 →
        exec .blob s = .next (withRun s
      { r with idx := r.idx + 1, out := r.out ++ bs })) ∧
      (bs.length ≠ r.last.toNat → exec .blob s = .next (packFailed s .blobLengthMismatch r.idx))) ∧
    (∀ w, s.vqi[r.idx]? = some (.word w) → ∀ i, i = .cstr ∨ i = .blob →
      exec i s = .next (packFailed s .valueKindMismatch r.idx))

/-- 44_field_kinds.md R233: in an UNPACK run, CSTR returns the bytes before the first 0x00 at or after the cursor and
consumes that terminator; with none it returns the rest of the buffer. It never fails. -/
def Obligations.CstrUnpackStep : Prop :=
  ∀ (s : State) (r : Run), s.run = some r → r.mode = .unpack →
    (∀ j, r.cur ≤ j → s.received[j]? = some 0x00 →
      (∀ k, r.cur ≤ k → k < j → s.received[k]? ≠ some 0x00) →
      exec .cstr s = .next (withRun s
      { r with idx := r.idx + 1, cur := j + 1,
                 res := r.res ++ [.bytes ((s.received.drop r.cur).take (j - r.cur))] })) ∧
    ((∀ k, r.cur ≤ k → s.received[k]? ≠ some 0x00) →
      exec .cstr s = .next (withRun s
      { r with idx := r.idx + 1, cur := s.rxlen.toNat, res := r.res ++ [.bytes (s.received.drop r.cur)] }))

/-- 44_field_kinds.md R235: in an UNPACK run, BLOB returns the next `last` bytes and moves the cursor past them; with
fewer left the run is abandoned with ShortBuffer. -/
def Obligations.BlobUnpackStep : Prop :=
  ∀ (s : State) (r : Run), s.run = some r → r.mode = .unpack →
    (r.cur + r.last.toNat ≤ s.rxlen.toNat → exec .blob s = .next (withRun s
      { r with idx := r.idx + 1, cur := r.cur + r.last.toNat,
               res := r.res ++ [.bytes ((s.received.drop r.cur).take r.last.toNat)] })) ∧
    (s.rxlen.toNat < r.cur + r.last.toNat → exec .blob s = .next (unpackFailed s .shortBuffer r.idx))

/-- The pack room check (43_field_engine.md section 2): a field whose bytes do not fit in PB abandons the run with
BufferFull. -/
def Obligations.PackFieldWithoutRoom : Prop :=
  ∀ (s : State) (r : Run) (i : Instr) (k : Byte) (v : Value) (bytes : List Byte) (last : Byte),
    s.run = some r → r.mode = .pack → encode i = [k] → i.isFieldKind = true → s.vqi[r.idx]? = some v →
    packField k v r.last = .ok (bytes, last) → 255 < s.plen.toNat + r.out.length + bytes.length →
    exec i s = .next (packFailed s .bufferFull r.idx)

/-! ## Block control -/

/-- NOP changes nothing; RESET, in every state, gives every register and queue its reset value (45_block_control.md).
The buffers' contents are unspecified after RESET, so nothing is said of them. That RESET keeps the bytes in `inp` and the
earlier responses in `out` is the model's choice (log 2), and so is that it drops a held run (log 11). -/
def Obligations.NopAndReset : Prop :=
  ∀ s : State,
    exec .nop s = .next { s with out := s.out ++ [okay] } ∧
    ∃ t, exec .reset s = .next t ∧
      t = { pb := t.pb, txb := t.txb, db := t.db, rxb := t.rxb, sig := t.sig, crc := 0, plen := 0, txlen := 0,
            txpos := 0, dstate := .waitHeader, derr := .none, dexp := 0, dcnt := 0, dcrc := 0, rxlen := 0,
            siglen := 0, vqi := [], vqo := [], feState := .idle, feErr := .ok, feErrIdx := 0, feCur := 0,
            lastU8 := 0, run := none, inp := s.inp, out := s.out ++ [okay] }

/-- 45_block_control.md R252 and 10_state.md R50: REG.RD returns the register numbered r for r = 0x00..0x12, and
BadOperand for every other number, and writes nothing. -/
def Obligations.RegisterRead : Prop :=
  ∀ (s : State) (r : Byte),
    (∀ w, (registerList s)[r.toNat]? = some w →
      exec (.regRd r) s = .next { s with out := s.out ++ [{ status := .ok, result := .word w }] }) ∧
    (0x12 < r.toNat → exec (.regRd r) s = .next { s with out := s.out ++ [failed .badOperand] }) ∧
    (registerList s).length = 0x13

/-- 10_state.md R49: the bits of STATUS. -/
def Obligations.StatusWordBits : Prop :=
  ∀ s : State,
    (s.statusWord.getLsbD 0 = true ↔ s.txpos.toNat < s.txlen.toNat) ∧
    (s.statusWord.getLsbD 1 = true ↔ s.dstate = .ready) ∧ (s.statusWord.getLsbD 2 = true ↔ s.dstate = .error) ∧
    (s.statusWord.getLsbD 3 = true ↔ s.feState = .fatal) ∧ (s.statusWord.getLsbD 4 = true ↔ s.vqo ≠ []) ∧
    ∀ n, 5 ≤ n → s.statusWord.getLsbD n = false

/-- After power-on and after RESET every register has its reset value and the queues are empty, whatever the buffers
hold, and after power-on every register number reads 0, which 70_reset_and_hazards.md section 1 marks derived. -/
def Obligations.ResetStateRegisters : Prop :=
  (∀ t : State, t = State.reset ∨ (∃ s, exec .reset s = .next t) →
    t.crc = 0 ∧ t.plen = 0 ∧ t.txlen = 0 ∧ t.txpos = 0 ∧ t.dstate = .waitHeader ∧ t.derr = .none ∧ t.dexp = 0 ∧
    t.dcnt = 0 ∧ t.dcrc = 0 ∧ t.rxlen = 0 ∧ t.siglen = 0 ∧ t.vqi = [] ∧ t.vqo = [] ∧ t.feState = .idle ∧
    t.feErr = .ok ∧ t.feErrIdx = 0 ∧ t.feCur = 0 ∧ t.lastU8 = 0) ∧
  ∀ r : Byte, r.toNat ≤ 0x12 → ∃ t, exec (.regRd r) State.reset = .next t ∧
    t.out = [{ status := .ok, result := .word 0 }]

/-! ## The whole machine -/

/-- The reset state meets the invariant. -/
def Obligations.ResetMeetsInvariant : Prop :=
  Inv State.reset

/-- The invariant of 10_state.md (R20's legal values, and the invariants of sections 3 to 5) is kept by every step, of
commands and of the microinstructions of a run. -/
def Obligations.StepKeepsInvariant : Prop :=
  ∀ s t : State, Inv s → step s = .next t → Inv t

/-- In a state that meets the invariant no step faults or refuses. -/
def Obligations.StepNeverStops : Prop :=
  ∀ s : State, Inv s → ∃ t, step s = .next t

/-- From any state whatever whose buffers are in canonical form, every step keeps them so. -/
def Obligations.StepKeepsBuffersCanonical : Prop :=
  ∀ s t : State, MemoriesOk s → step s = .next t → MemoriesOk t

/-- The bytes of a buffer at or beyond its valid length are unobservable (10_state.md section 6): two good states that
differ in such bytes only take steps to states that again differ in such bytes only, with the same responses. -/
def Obligations.HiddenBytesAreUnobservable : Prop :=
  ∀ s t : State, Inv s → Inv t → Agree s t →
    ∃ s' t', step s = .next s' ∧ step t = .next t' ∧ Agree s' t' ∧ s'.out = t'.out

/-- No instruction touches another unit's state (00_scope.md section 2, 60_exceptions.md section 2): each register, queue
and buffer is changed only by the instructions its rule names (10_state.md sections 2 to 5). RESET changes all of them; of
the field kinds, only a failing one in a run changes FE_ERR, FE_ERRIDX and VQO (the run is log 6). -/
def Obligations.CommandsTouchOnlyTheirUnit : Prop :=
  ∀ (s t : State) (i : Instr), exec i s = .next t → i ≠ .reset →
    (i ≠ .crcClr → (∀ b, i ≠ .crcUpd b) → t.crc = s.crc) ∧
    (i ≠ .encFrame → t.txb = s.txb ∧ t.txlen = s.txlen ∧ (i ≠ .txPop → t.txpos = s.txpos)) ∧
    (i ≠ .pack → (∀ b, i ≠ .pbApp b) → t.pb = s.pb ∧ (i ≠ .pbClr → t.plen = s.plen)) ∧
    (i ≠ .decTake → (∀ b, i ≠ .rxApp b) → t.rxb = s.rxb ∧ (i ≠ .rxClr → t.rxlen = s.rxlen)) ∧
    (i ≠ .decTake → i ≠ .decRst → (∀ b, i ≠ .decFeed b) →
      t.dstate = s.dstate ∧ t.derr = s.derr ∧ t.dexp = s.dexp ∧ t.dcnt = s.dcnt ∧ t.dcrc = s.dcrc) ∧
    ((∀ b, i ≠ .decFeed b) → t.db = s.db) ∧
    ((∀ k, i ≠ .sigApp k) → t.sig = s.sig ∧ (i ≠ .sigClr → i ≠ .feRst → t.siglen = s.siglen)) ∧
    ((∀ w, i ≠ .vqPushw w) → (∀ bs, i ≠ .vqPushb bs) → i ≠ .vqiClr → i ≠ .pack → i ≠ .feRst → t.vqi = s.vqi) ∧
    (i ≠ .vqPop → i ≠ .unpack → i ≠ .feRst → i.isFieldKind = false → t.vqo = s.vqo) ∧
    (i ≠ .pack → i ≠ .unpack → i ≠ .feRst →
      t.feState = s.feState ∧ t.feCur = s.feCur ∧ t.lastU8 = s.lastU8 ∧
      (i.isFieldKind = false → t.feErr = s.feErr ∧ t.feErrIdx = s.feErrIdx))

/-- The halt is sticky (60_exceptions.md section 3): in a halted engine no command but FE.RST and RESET clears the halt
or changes its recorded cause, the signature or the queues. -/
def Obligations.OnlyResetClearsHalt : Prop :=
  ∀ (s t : State) (i : Instr), s.feState = .fatal → i.isFieldKind = false → exec i s = .next t → i ≠ .feRst →
    i ≠ .reset →
    t.feState = .fatal ∧ t.feErr = s.feErr ∧ t.feErrIdx = s.feErrIdx ∧ t.sig = s.sig ∧ t.siglen = s.siglen ∧
    t.vqi = s.vqi ∧ t.vqo = s.vqo ∧ t.lastU8 = s.lastU8 ∧ t.feCur = s.feCur

/-- One command, one response (30_encoding.md section 2): a command that is executed returns exactly one response, with
a result only when its status is OK, and leaves no run in progress. That the response is appended to `out` with every
earlier one kept, by RESET too, and that exec takes nothing from `inp`, is the model's choice (log 1, log 2). -/
def Obligations.OneResponsePerCommand : Prop :=
  ∀ (s t : State) (i : Instr), i.isFieldKind = false → s.run = none → exec i s = .next t →
    t.run = none ∧ t.inp = s.inp ∧ ∃ r, t.out = s.out ++ [r] ∧ (r.status ≠ .ok → r.result = .none)

/-- What a failing command changes (60_exceptions.md sections 1 and 2): a command that completes with a status other than
OK raises one of the statuses that the status table names for it, and changes exactly what the table lists for that
status: the decoder's state and error for a framing error; FE_STATE, FE_ERR and FE_ERRIDX for a fatal error; FE_ERR and
FE_ERRIDX for an abandoned PACK, and VQO (emptied) too for an abandoned UNPACK; and nothing for every other status.
FE_ERRIDX takes min(|VQI|, SIGLEN) for ValueCountMismatch and the index of a signature entry for the other errors of a
run. -/
def Obligations.FailedCommandChangesOnlyListed : Prop :=
  ∀ (s t : State) (i : Instr) (e : Status), i.isFieldKind = false → s.run = none → exec i s = .next t →
    t.out = s.out ++ [failed e] → e ≠ .ok →
    e ∈ failures i ∧ ∃ idx : Nat,
      (e = .valueCountMismatch → idx = min s.vqi.length s.siglen.toNat) ∧
      (i = .pack ∨ i = .unpack → e ≠ .feHalted → e ≠ .valueCountMismatch → idx < s.siglen.toNat) ∧
      t = { failureEffect s i idx e with out := s.out ++ [failed e] }

/-- The model's own stops (log 7, log 10): a field kind executed while no run is in progress is refused, and an access
past a buffer's capacity, in a state no run reaches, faults. -/
def Obligations.StopsOutsideLegalStates : Prop :=
  ∀ s : State,
    (∀ i : Instr, i.isFieldKind = true → s.run = none → exec i s = .refused .fieldKindOutsideRun) ∧
    (s.txpos ≠ s.txlen → 35 ≤ s.txpos.toNat → exec .txPop s = .fault .noSuchEntry) ∧
    (s.dstate = .waitData → 32 ≤ s.dcnt.toNat → ∀ b, exec (.decFeed b) s = .fault .noSuchEntry) ∧
    (s.dstate = .ready → 32 < s.dexp.toNat → exec .decTake s = .fault .noSuchEntry) ∧
    (s.feState = .idle → 32 < s.siglen.toNat →
      (∀ k, exec (.sigApp k) s = .fault .noSuchEntry) ∧ exec .pack s = .fault .noSuchEntry ∧
      exec .unpack s = .fault .noSuchEntry)
end

