-- ==== Sys2Proof/Laws/Memory.lean ====
section
/-! SUPPORT. The laws of the byte buffers: a read after a write, the slices, and the canonical form. The read laws hold
of every list of cells, canonical or not. -/

namespace Sys2Proof.Machine

theorem Memory.read_nil (i : Nat) : Memory.read [] i = Memory.unlisted := rfl

theorem Memory.read_erase_same (m : Memory) (i : Nat) : Memory.read (Memory.erase m i) i = Memory.unlisted := by
  induction m with
  | nil => rfl
  | cons c m ih =>
    obtain ⟨a, b⟩ := c
    by_cases h : a = i
    · simpa [Memory.erase, h] using ih
    · simpa [Memory.erase, Memory.read, h] using ih

theorem Memory.read_erase_ne (m : Memory) {i j : Nat} (h : j ≠ i) :
    Memory.read (Memory.erase m i) j = Memory.read m j := by
  induction m with
  | nil => rfl
  | cons c m ih =>
    obtain ⟨a, b⟩ := c
    by_cases ha : a = i
    · have : a ≠ j := fun e => h (e ▸ ha)
      simpa [Memory.erase, Memory.read, ha, this, h.symm] using ih
    · simp only [Memory.erase, ha, if_false, Memory.read, ih]

theorem Memory.read_insertCell_same (m : Memory) (i : Nat) (b : Byte) (h : ∀ c ∈ m, c.1 ≠ i) :
    Memory.read (Memory.insertCell m i b) i = b := by
  induction m with
  | nil => simp [Memory.insertCell, Memory.read]
  | cons c m ih =>
    obtain ⟨a, x⟩ := c
    have ha : a ≠ i := h (a, x) (by simp)
    have ht := ih (fun c hc => h c (by simp [hc]))
    by_cases hi : i < a
    · simp [Memory.insertCell, hi, Memory.read]
    · simp [Memory.insertCell, hi, Memory.read, ha, ht]

theorem Memory.read_insertCell_ne (m : Memory) {i j : Nat} (b : Byte) (h : j ≠ i) :
    Memory.read (Memory.insertCell m i b) j = Memory.read m j := by
  induction m with
  | nil => simp [Memory.insertCell, Memory.read, h.symm]
  | cons c m ih =>
    obtain ⟨a, x⟩ := c
    by_cases hi : i < a
    · simp [Memory.insertCell, hi, Memory.read, h.symm]
    · simp only [Memory.insertCell, hi, if_false, Memory.read, ih]

theorem Memory.not_mem_erase (m : Memory) (i : Nat) : ∀ c ∈ Memory.erase m i, c.1 ≠ i := by
  induction m with
  | nil => simp [Memory.erase]
  | cons c m ih =>
    obtain ⟨a, b⟩ := c
    by_cases ha : a = i
    · simpa [Memory.erase, ha] using ih
    · intro c hc
      simp only [Memory.erase, ha, if_false, List.mem_cons] at hc
      rcases hc with rfl | hc
      · exact ha
      · exact ih c hc

/-- A read of the entry just written gives the byte written. -/
@[simp] theorem Memory.read_write_same (m : Memory) (i : Nat) (b : Byte) :
    Memory.read (Memory.write m i b) i = b := by
  unfold Memory.write
  split
  · next h => rw [Memory.read_erase_same, h]
  · exact Memory.read_insertCell_same _ _ _ (Memory.not_mem_erase m i)

/-- A write leaves every other entry alone. -/
theorem Memory.read_write_ne (m : Memory) {i j : Nat} (b : Byte) (h : j ≠ i) :
    Memory.read (Memory.write m i b) j = Memory.read m j := by
  unfold Memory.write
  split
  · exact Memory.read_erase_ne m h
  · rw [Memory.read_insertCell_ne _ _ h, Memory.read_erase_ne m h]

/-- A list write leaves every entry outside it alone. -/
theorem Memory.read_writeList_outside (bs : List Byte) (m : Memory) (i j : Nat) (h : j < i ∨ i + bs.length ≤ j) :
    Memory.read (Memory.writeList m i bs) j = Memory.read m j := by
  induction bs generalizing m i with
  | nil => rfl
  | cons b bs ih =>
    simp only [List.length_cons] at h
    rw [Memory.writeList, ih _ _ (by omega), Memory.read_write_ne _ _ (by omega)]

/-- A list write puts its bytes in order. -/
theorem Memory.read_writeList_inside (bs : List Byte) (m : Memory) (i k : Nat) (h : k < bs.length) :
    Memory.read (Memory.writeList m i bs) (i + k) = bs[k] := by
  induction bs generalizing m i k with
  | nil => simp at h
  | cons b bs ih =>
    rw [Memory.writeList]
    cases k with
    | zero => rw [Nat.add_zero, Memory.read_writeList_outside _ _ _ _ (by omega)]; simp
    | succ k =>
      have h' : k < bs.length := by simpa using h
      have := ih (Memory.write m i b) (i + 1) k h'
      rw [show i + (k + 1) = i + 1 + k by omega, this]
      simp

@[simp] theorem Memory.length_slice (m : Memory) (n : Nat) : (Memory.slice m n).length = n := by
  simp [Memory.slice]

@[simp] theorem Memory.getElem_slice (m : Memory) (n k : Nat) (h : k < (Memory.slice m n).length) :
    (Memory.slice m n)[k] = Memory.read m k := by
  simp [Memory.slice]

@[simp] theorem Memory.slice_zero (m : Memory) : Memory.slice m 0 = [] := rfl

theorem Memory.slice_succ (m : Memory) (n : Nat) : Memory.slice m (n + 1) = Memory.slice m n ++ [Memory.read m n] := by
  simp [Memory.slice, List.range_succ]

/-- Two buffers that agree below `n` have the same first `n` entries. -/
theorem Memory.slice_congr {m m' : Memory} {n : Nat} (h : ∀ k < n, Memory.read m k = Memory.read m' k) :
    Memory.slice m n = Memory.slice m' n := by
  simpa [Memory.slice] using h

/-- A write at or past `n` leaves the first `n` entries alone. -/
theorem Memory.slice_write_outside (m : Memory) {n i : Nat} (b : Byte) (h : n ≤ i) :
    Memory.slice (Memory.write m i b) n = Memory.slice m n :=
  Memory.slice_congr fun k hk => Memory.read_write_ne m b (by omega)

/-- Appending a byte at the end of a slice. -/
theorem Memory.slice_write_end (m : Memory) (n : Nat) (b : Byte) :
    Memory.slice (Memory.write m n b) (n + 1) = Memory.slice m n ++ [b] := by
  rw [Memory.slice_succ, Memory.slice_write_outside m b le_rfl, Memory.read_write_same]

/-- Writing a list at `n` appends it to the first `n` entries. -/
theorem Memory.slice_writeList_end (bs : List Byte) (m : Memory) (n : Nat) :
    Memory.slice (Memory.writeList m n bs) (n + bs.length) = Memory.slice m n ++ bs := by
  induction bs generalizing m n with
  | nil => simp [Memory.writeList]
  | cons b bs ih =>
    rw [Memory.writeList, List.length_cons, show n + (bs.length + 1) = n + 1 + bs.length by omega, ih,
      Memory.slice_write_end]
    simp

/-- Writing a list at 0 makes it the first entries. -/
@[simp] theorem Memory.slice_writeList_zero (bs : List Byte) (m : Memory) :
    Memory.slice (Memory.writeList m 0 bs) bs.length = bs := by
  simpa using Memory.slice_writeList_end bs m 0

/-! ## The canonical form -/

theorem Memory.wfFrom_mono {cap lo lo' : Nat} {m : Memory} (h : Memory.wfFrom cap lo m = true) (hl : lo' ≤ lo) :
    Memory.wfFrom cap lo' m = true := by
  cases m with
  | nil => rfl
  | cons c m =>
    obtain ⟨a, b⟩ := c
    simp only [Memory.wfFrom, Bool.and_eq_true, decide_eq_true_eq] at h ⊢
    exact ⟨⟨⟨by omega, h.1.1.2⟩, h.1.2⟩, h.2⟩

theorem Memory.wfFrom_erase {cap lo : Nat} {m : Memory} (i : Nat) (h : Memory.wfFrom cap lo m = true) :
    Memory.wfFrom cap lo (Memory.erase m i) = true := by
  induction m generalizing lo with
  | nil => rfl
  | cons c m ih =>
    obtain ⟨a, b⟩ := c
    simp only [Memory.wfFrom, Bool.and_eq_true, decide_eq_true_eq] at h
    by_cases ha : a = i
    · simp only [Memory.erase, ha, if_true]
      exact Memory.wfFrom_mono (ih h.2) (by omega)
    · simp only [Memory.erase, ha, if_false, Memory.wfFrom, Bool.and_eq_true, decide_eq_true_eq]
      exact ⟨h.1, ih h.2⟩

theorem Memory.wfFrom_insertCell {cap lo i : Nat} {m : Memory} {b : Byte} (h : Memory.wfFrom cap lo m = true)
    (hi : ∀ c ∈ m, c.1 ≠ i) (hlo : lo ≤ i) (hcap : i < cap) (hb : b ≠ Memory.unlisted) :
    Memory.wfFrom cap lo (Memory.insertCell m i b) = true := by
  induction m generalizing lo with
  | nil => simp [Memory.insertCell, Memory.wfFrom, hlo, hcap, hb]
  | cons c m ih =>
    obtain ⟨a, x⟩ := c
    have hne : a ≠ i := hi (a, x) (by simp)
    simp only [Memory.wfFrom, Bool.and_eq_true, decide_eq_true_eq] at h
    by_cases hia : i < a
    · simp only [Memory.insertCell, hia, if_true, Memory.wfFrom, Bool.and_eq_true, decide_eq_true_eq]
      exact ⟨⟨⟨hlo, hcap⟩, by simp [hb]⟩, ⟨⟨by omega, h.1.1.2⟩, h.1.2⟩, h.2⟩
    · simp only [Memory.insertCell, hia, if_false, Memory.wfFrom, Bool.and_eq_true, decide_eq_true_eq]
      exact ⟨h.1, ih h.2 (fun c hc => hi c (by simp [hc])) (by omega)⟩

/-- A write of an entry the buffer has keeps the canonical form. -/
theorem Memory.wf_write {cap : Nat} {m : Memory} {i : Nat} (b : Byte) (h : Memory.wf cap m = true) (hi : i < cap) :
    Memory.wf cap (Memory.write m i b) = true := by
  unfold Memory.write
  split
  · exact Memory.wfFrom_erase i h
  · next hb =>
    exact Memory.wfFrom_insertCell (Memory.wfFrom_erase i h) (Memory.not_mem_erase m i) (Nat.zero_le _) hi hb

/-- A list write within the buffer keeps the canonical form. -/
theorem Memory.wf_writeList {cap : Nat} (bs : List Byte) {m : Memory} {i : Nat} (h : Memory.wf cap m = true)
    (hi : i + bs.length ≤ cap) : Memory.wf cap (Memory.writeList m i bs) = true := by
  induction bs generalizing m i with
  | nil => exact h
  | cons b bs ih =>
    simp only [List.length_cons] at hi
    exact ih (Memory.wf_write b h (by omega)) (by omega)

theorem Memory.read_below {cap lo j : Nat} {m : Memory} (h : Memory.wfFrom cap lo m = true) (hj : j < lo) :
    Memory.read m j = Memory.unlisted := by
  induction m generalizing lo with
  | nil => rfl
  | cons c m ih =>
    obtain ⟨a, b⟩ := c
    simp only [Memory.wfFrom, Bool.and_eq_true, decide_eq_true_eq] at h
    rw [Memory.read, if_neg (by omega)]
    exact ih h.2 (by omega)

theorem Memory.ext_wfFrom {cap lo : Nat} {m m' : Memory} (h : Memory.wfFrom cap lo m = true)
    (h' : Memory.wfFrom cap lo m' = true) (e : ∀ i, Memory.read m i = Memory.read m' i) : m = m' := by
  induction m generalizing lo m' with
  | nil =>
    cases m' with
    | nil => rfl
    | cons c m' =>
      obtain ⟨a, b⟩ := c
      simp only [Memory.wfFrom, Bool.and_eq_true, bne_iff_ne] at h'
      exact absurd (by simpa [Memory.read] using (e a).symm) h'.1.2
  | cons c m ih =>
    obtain ⟨a, b⟩ := c
    have hm := h
    simp only [Memory.wfFrom, Bool.and_eq_true, decide_eq_true_eq, bne_iff_ne] at h
    cases m' with
    | nil => exact absurd (by simpa [Memory.read] using e a) h.1.2
    | cons c' m' =>
      obtain ⟨a', b'⟩ := c'
      have hm' := h'
      simp only [Memory.wfFrom, Bool.and_eq_true, decide_eq_true_eq, bne_iff_ne] at h'
      have haa : a = a' := by
        rcases Nat.lt_trichotomy a a' with hlt | heq | hgt
        · have := e a
          rw [Memory.read, if_pos rfl, Memory.read, if_neg (by omega),
            Memory.read_below h'.2 (by omega)] at this
          exact absurd this h.1.2
        · exact heq
        · have := e a'
          rw [Memory.read, if_neg (by omega), Memory.read, if_pos rfl,
            Memory.read_below h.2 (by omega)] at this
          exact absurd this.symm h'.1.2
      subst haa
      have hbb : b = b' := by simpa [Memory.read] using e a
      subst hbb
      refine congrArg _ (ih h.2 h'.2 fun i => ?_)
      by_cases hi : a = i
      · rw [Memory.read_below h.2 (by omega), Memory.read_below h'.2 (by omega)]
      · simpa [Memory.read, hi] using e i

/-- In canonical form, buffers that read the same are the same list. -/
theorem Memory.ext_wf {cap : Nat} {m m' : Memory} (h : Memory.wf cap m = true) (h' : Memory.wf cap m' = true)
    (e : ∀ i, Memory.read m i = Memory.read m' i) : m = m' :=
  Memory.ext_wfFrom h h' e

/-- The empty list is canonical. -/
@[simp] theorem Memory.wf_nil (cap : Nat) : Memory.wf cap [] = true := rfl

end Sys2Proof.Machine
end

