-- ==== Sys2Proof/Laws/State.lean ====
section
/-! SUPPORT. One lemma per field of State for each named update of Machine/Ops.lean, all true by definition. -/

namespace Sys2Proof.Machine

/-! ## State.respond -/

@[simp] theorem State.respond_crc (s : State) (st : Status) (r : Result) : (s.respond st r).crc = s.crc := rfl
@[simp] theorem State.respond_pb (s : State) (st : Status) (r : Result) : (s.respond st r).pb = s.pb := rfl
@[simp] theorem State.respond_plen (s : State) (st : Status) (r : Result) : (s.respond st r).plen = s.plen := rfl
@[simp] theorem State.respond_txb (s : State) (st : Status) (r : Result) : (s.respond st r).txb = s.txb := rfl
@[simp] theorem State.respond_txlen (s : State) (st : Status) (r : Result) : (s.respond st r).txlen = s.txlen := rfl
@[simp] theorem State.respond_txpos (s : State) (st : Status) (r : Result) : (s.respond st r).txpos = s.txpos := rfl
@[simp] theorem State.respond_dstate (s : State) (st : Status) (r : Result) : (s.respond st r).dstate = s.dstate := rfl
@[simp] theorem State.respond_derr (s : State) (st : Status) (r : Result) : (s.respond st r).derr = s.derr := rfl
@[simp] theorem State.respond_dexp (s : State) (st : Status) (r : Result) : (s.respond st r).dexp = s.dexp := rfl
@[simp] theorem State.respond_dcnt (s : State) (st : Status) (r : Result) : (s.respond st r).dcnt = s.dcnt := rfl
@[simp] theorem State.respond_dcrc (s : State) (st : Status) (r : Result) : (s.respond st r).dcrc = s.dcrc := rfl
@[simp] theorem State.respond_db (s : State) (st : Status) (r : Result) : (s.respond st r).db = s.db := rfl
@[simp] theorem State.respond_rxb (s : State) (st : Status) (r : Result) : (s.respond st r).rxb = s.rxb := rfl
@[simp] theorem State.respond_rxlen (s : State) (st : Status) (r : Result) : (s.respond st r).rxlen = s.rxlen := rfl
@[simp] theorem State.respond_sig (s : State) (st : Status) (r : Result) : (s.respond st r).sig = s.sig := rfl
@[simp] theorem State.respond_siglen (s : State) (st : Status) (r : Result) : (s.respond st r).siglen = s.siglen := rfl
@[simp] theorem State.respond_vqi (s : State) (st : Status) (r : Result) : (s.respond st r).vqi = s.vqi := rfl
@[simp] theorem State.respond_vqo (s : State) (st : Status) (r : Result) : (s.respond st r).vqo = s.vqo := rfl
@[simp] theorem State.respond_feState (s : State) (st : Status) (r : Result) : (s.respond st r).feState = s.feState := rfl
@[simp] theorem State.respond_feErr (s : State) (st : Status) (r : Result) : (s.respond st r).feErr = s.feErr := rfl
@[simp] theorem State.respond_feErrIdx (s : State) (st : Status) (r : Result) : (s.respond st r).feErrIdx = s.feErrIdx := rfl
@[simp] theorem State.respond_feCur (s : State) (st : Status) (r : Result) : (s.respond st r).feCur = s.feCur := rfl
@[simp] theorem State.respond_lastU8 (s : State) (st : Status) (r : Result) : (s.respond st r).lastU8 = s.lastU8 := rfl
@[simp] theorem State.respond_run (s : State) (st : Status) (r : Result) : (s.respond st r).run = s.run := rfl
@[simp] theorem State.respond_inp (s : State) (st : Status) (r : Result) : (s.respond st r).inp = s.inp := rfl
@[simp] theorem State.respond_out (s : State) (st : Status) (r : Result) : (s.respond st r).out = s.out ++ [{ status := st, result := r }] := rfl

/-! ## State.resetDecoder -/

@[simp] theorem State.resetDecoder_crc (s : State) : (s.resetDecoder).crc = s.crc := rfl
@[simp] theorem State.resetDecoder_pb (s : State) : (s.resetDecoder).pb = s.pb := rfl
@[simp] theorem State.resetDecoder_plen (s : State) : (s.resetDecoder).plen = s.plen := rfl
@[simp] theorem State.resetDecoder_txb (s : State) : (s.resetDecoder).txb = s.txb := rfl
@[simp] theorem State.resetDecoder_txlen (s : State) : (s.resetDecoder).txlen = s.txlen := rfl
@[simp] theorem State.resetDecoder_txpos (s : State) : (s.resetDecoder).txpos = s.txpos := rfl
@[simp] theorem State.resetDecoder_dstate (s : State) : (s.resetDecoder).dstate = .waitHeader := rfl
@[simp] theorem State.resetDecoder_derr (s : State) : (s.resetDecoder).derr = .none := rfl
@[simp] theorem State.resetDecoder_dexp (s : State) : (s.resetDecoder).dexp = 0 := rfl
@[simp] theorem State.resetDecoder_dcnt (s : State) : (s.resetDecoder).dcnt = 0 := rfl
@[simp] theorem State.resetDecoder_dcrc (s : State) : (s.resetDecoder).dcrc = 0x00 := rfl
@[simp] theorem State.resetDecoder_db (s : State) : (s.resetDecoder).db = s.db := rfl
@[simp] theorem State.resetDecoder_rxb (s : State) : (s.resetDecoder).rxb = s.rxb := rfl
@[simp] theorem State.resetDecoder_rxlen (s : State) : (s.resetDecoder).rxlen = s.rxlen := rfl
@[simp] theorem State.resetDecoder_sig (s : State) : (s.resetDecoder).sig = s.sig := rfl
@[simp] theorem State.resetDecoder_siglen (s : State) : (s.resetDecoder).siglen = s.siglen := rfl
@[simp] theorem State.resetDecoder_vqi (s : State) : (s.resetDecoder).vqi = s.vqi := rfl
@[simp] theorem State.resetDecoder_vqo (s : State) : (s.resetDecoder).vqo = s.vqo := rfl
@[simp] theorem State.resetDecoder_feState (s : State) : (s.resetDecoder).feState = s.feState := rfl
@[simp] theorem State.resetDecoder_feErr (s : State) : (s.resetDecoder).feErr = s.feErr := rfl
@[simp] theorem State.resetDecoder_feErrIdx (s : State) : (s.resetDecoder).feErrIdx = s.feErrIdx := rfl
@[simp] theorem State.resetDecoder_feCur (s : State) : (s.resetDecoder).feCur = s.feCur := rfl
@[simp] theorem State.resetDecoder_lastU8 (s : State) : (s.resetDecoder).lastU8 = s.lastU8 := rfl
@[simp] theorem State.resetDecoder_run (s : State) : (s.resetDecoder).run = s.run := rfl
@[simp] theorem State.resetDecoder_inp (s : State) : (s.resetDecoder).inp = s.inp := rfl
@[simp] theorem State.resetDecoder_out (s : State) : (s.resetDecoder).out = s.out := rfl

/-! ## State.resetFieldEngine -/

@[simp] theorem State.resetFieldEngine_crc (s : State) : (s.resetFieldEngine).crc = s.crc := rfl
@[simp] theorem State.resetFieldEngine_pb (s : State) : (s.resetFieldEngine).pb = s.pb := rfl
@[simp] theorem State.resetFieldEngine_plen (s : State) : (s.resetFieldEngine).plen = s.plen := rfl
@[simp] theorem State.resetFieldEngine_txb (s : State) : (s.resetFieldEngine).txb = s.txb := rfl
@[simp] theorem State.resetFieldEngine_txlen (s : State) : (s.resetFieldEngine).txlen = s.txlen := rfl
@[simp] theorem State.resetFieldEngine_txpos (s : State) : (s.resetFieldEngine).txpos = s.txpos := rfl
@[simp] theorem State.resetFieldEngine_dstate (s : State) : (s.resetFieldEngine).dstate = s.dstate := rfl
@[simp] theorem State.resetFieldEngine_derr (s : State) : (s.resetFieldEngine).derr = s.derr := rfl
@[simp] theorem State.resetFieldEngine_dexp (s : State) : (s.resetFieldEngine).dexp = s.dexp := rfl
@[simp] theorem State.resetFieldEngine_dcnt (s : State) : (s.resetFieldEngine).dcnt = s.dcnt := rfl
@[simp] theorem State.resetFieldEngine_dcrc (s : State) : (s.resetFieldEngine).dcrc = s.dcrc := rfl
@[simp] theorem State.resetFieldEngine_db (s : State) : (s.resetFieldEngine).db = s.db := rfl
@[simp] theorem State.resetFieldEngine_rxb (s : State) : (s.resetFieldEngine).rxb = s.rxb := rfl
@[simp] theorem State.resetFieldEngine_rxlen (s : State) : (s.resetFieldEngine).rxlen = s.rxlen := rfl
@[simp] theorem State.resetFieldEngine_sig (s : State) : (s.resetFieldEngine).sig = s.sig := rfl
@[simp] theorem State.resetFieldEngine_siglen (s : State) : (s.resetFieldEngine).siglen = 0 := rfl
@[simp] theorem State.resetFieldEngine_vqi (s : State) : (s.resetFieldEngine).vqi = [] := rfl
@[simp] theorem State.resetFieldEngine_vqo (s : State) : (s.resetFieldEngine).vqo = [] := rfl
@[simp] theorem State.resetFieldEngine_feState (s : State) : (s.resetFieldEngine).feState = .idle := rfl
@[simp] theorem State.resetFieldEngine_feErr (s : State) : (s.resetFieldEngine).feErr = .ok := rfl
@[simp] theorem State.resetFieldEngine_feErrIdx (s : State) : (s.resetFieldEngine).feErrIdx = 0 := rfl
@[simp] theorem State.resetFieldEngine_feCur (s : State) : (s.resetFieldEngine).feCur = 0 := rfl
@[simp] theorem State.resetFieldEngine_lastU8 (s : State) : (s.resetFieldEngine).lastU8 = 0x00 := rfl
@[simp] theorem State.resetFieldEngine_run (s : State) : (s.resetFieldEngine).run = none := rfl
@[simp] theorem State.resetFieldEngine_inp (s : State) : (s.resetFieldEngine).inp = s.inp := rfl
@[simp] theorem State.resetFieldEngine_out (s : State) : (s.resetFieldEngine).out = s.out := rfl

/-! ## State.resetBlock -/

@[simp] theorem State.resetBlock_crc (s : State) : (s.resetBlock).crc = State.reset.crc := rfl
@[simp] theorem State.resetBlock_pb (s : State) : (s.resetBlock).pb = State.reset.pb := rfl
@[simp] theorem State.resetBlock_plen (s : State) : (s.resetBlock).plen = State.reset.plen := rfl
@[simp] theorem State.resetBlock_txb (s : State) : (s.resetBlock).txb = State.reset.txb := rfl
@[simp] theorem State.resetBlock_txlen (s : State) : (s.resetBlock).txlen = State.reset.txlen := rfl
@[simp] theorem State.resetBlock_txpos (s : State) : (s.resetBlock).txpos = State.reset.txpos := rfl
@[simp] theorem State.resetBlock_dstate (s : State) : (s.resetBlock).dstate = State.reset.dstate := rfl
@[simp] theorem State.resetBlock_derr (s : State) : (s.resetBlock).derr = State.reset.derr := rfl
@[simp] theorem State.resetBlock_dexp (s : State) : (s.resetBlock).dexp = State.reset.dexp := rfl
@[simp] theorem State.resetBlock_dcnt (s : State) : (s.resetBlock).dcnt = State.reset.dcnt := rfl
@[simp] theorem State.resetBlock_dcrc (s : State) : (s.resetBlock).dcrc = State.reset.dcrc := rfl
@[simp] theorem State.resetBlock_db (s : State) : (s.resetBlock).db = State.reset.db := rfl
@[simp] theorem State.resetBlock_rxb (s : State) : (s.resetBlock).rxb = State.reset.rxb := rfl
@[simp] theorem State.resetBlock_rxlen (s : State) : (s.resetBlock).rxlen = State.reset.rxlen := rfl
@[simp] theorem State.resetBlock_sig (s : State) : (s.resetBlock).sig = State.reset.sig := rfl
@[simp] theorem State.resetBlock_siglen (s : State) : (s.resetBlock).siglen = State.reset.siglen := rfl
@[simp] theorem State.resetBlock_vqi (s : State) : (s.resetBlock).vqi = State.reset.vqi := rfl
@[simp] theorem State.resetBlock_vqo (s : State) : (s.resetBlock).vqo = State.reset.vqo := rfl
@[simp] theorem State.resetBlock_feState (s : State) : (s.resetBlock).feState = State.reset.feState := rfl
@[simp] theorem State.resetBlock_feErr (s : State) : (s.resetBlock).feErr = State.reset.feErr := rfl
@[simp] theorem State.resetBlock_feErrIdx (s : State) : (s.resetBlock).feErrIdx = State.reset.feErrIdx := rfl
@[simp] theorem State.resetBlock_feCur (s : State) : (s.resetBlock).feCur = State.reset.feCur := rfl
@[simp] theorem State.resetBlock_lastU8 (s : State) : (s.resetBlock).lastU8 = State.reset.lastU8 := rfl
@[simp] theorem State.resetBlock_run (s : State) : (s.resetBlock).run = State.reset.run := rfl
@[simp] theorem State.resetBlock_inp (s : State) : (s.resetBlock).inp = s.inp := rfl
@[simp] theorem State.resetBlock_out (s : State) : (s.resetBlock).out = s.out := rfl

/-! ## State.beginRun -/

@[simp] theorem State.beginRun_crc (s : State) (mode : RunMode) : (s.beginRun mode).crc = s.crc := rfl
@[simp] theorem State.beginRun_pb (s : State) (mode : RunMode) : (s.beginRun mode).pb = s.pb := rfl
@[simp] theorem State.beginRun_plen (s : State) (mode : RunMode) : (s.beginRun mode).plen = s.plen := rfl
@[simp] theorem State.beginRun_txb (s : State) (mode : RunMode) : (s.beginRun mode).txb = s.txb := rfl
@[simp] theorem State.beginRun_txlen (s : State) (mode : RunMode) : (s.beginRun mode).txlen = s.txlen := rfl
@[simp] theorem State.beginRun_txpos (s : State) (mode : RunMode) : (s.beginRun mode).txpos = s.txpos := rfl
@[simp] theorem State.beginRun_dstate (s : State) (mode : RunMode) : (s.beginRun mode).dstate = s.dstate := rfl
@[simp] theorem State.beginRun_derr (s : State) (mode : RunMode) : (s.beginRun mode).derr = s.derr := rfl
@[simp] theorem State.beginRun_dexp (s : State) (mode : RunMode) : (s.beginRun mode).dexp = s.dexp := rfl
@[simp] theorem State.beginRun_dcnt (s : State) (mode : RunMode) : (s.beginRun mode).dcnt = s.dcnt := rfl
@[simp] theorem State.beginRun_dcrc (s : State) (mode : RunMode) : (s.beginRun mode).dcrc = s.dcrc := rfl
@[simp] theorem State.beginRun_db (s : State) (mode : RunMode) : (s.beginRun mode).db = s.db := rfl
@[simp] theorem State.beginRun_rxb (s : State) (mode : RunMode) : (s.beginRun mode).rxb = s.rxb := rfl
@[simp] theorem State.beginRun_rxlen (s : State) (mode : RunMode) : (s.beginRun mode).rxlen = s.rxlen := rfl
@[simp] theorem State.beginRun_sig (s : State) (mode : RunMode) : (s.beginRun mode).sig = s.sig := rfl
@[simp] theorem State.beginRun_siglen (s : State) (mode : RunMode) : (s.beginRun mode).siglen = s.siglen := rfl
@[simp] theorem State.beginRun_vqi (s : State) (mode : RunMode) : (s.beginRun mode).vqi = s.vqi := rfl
@[simp] theorem State.beginRun_vqo (s : State) (mode : RunMode) : (s.beginRun mode).vqo = s.vqo := rfl
@[simp] theorem State.beginRun_feState (s : State) (mode : RunMode) : (s.beginRun mode).feState = s.feState := rfl
@[simp] theorem State.beginRun_feErr (s : State) (mode : RunMode) : (s.beginRun mode).feErr = s.feErr := rfl
@[simp] theorem State.beginRun_feErrIdx (s : State) (mode : RunMode) : (s.beginRun mode).feErrIdx = s.feErrIdx := rfl
@[simp] theorem State.beginRun_feCur (s : State) (mode : RunMode) : (s.beginRun mode).feCur = s.feCur := rfl
@[simp] theorem State.beginRun_lastU8 (s : State) (mode : RunMode) : (s.beginRun mode).lastU8 = s.lastU8 := rfl
@[simp] theorem State.beginRun_run (s : State) (mode : RunMode) : (s.beginRun mode).run = some (Run.start mode) := rfl
@[simp] theorem State.beginRun_inp (s : State) (mode : RunMode) : (s.beginRun mode).inp = s.inp := rfl
@[simp] theorem State.beginRun_out (s : State) (mode : RunMode) : (s.beginRun mode).out = s.out := rfl

end Sys2Proof.Machine
end

