-- ==== Sys2Proof/Laws/Ops.lean ====
section
/-! SUPPORT. For each shared operation, what it can do, said once: an equation, or the list of cases of a next state. -/

namespace Sys2Proof.Machine

/-! ## Completing a command -/

@[simp] theorem State.complete_eq_next {s t : State} :
    (s.complete = .next t) ↔ t = s.respond .ok .none := by
  constructor
  · intro h; cases h; rfl
  · rintro rfl; rfl

@[simp] theorem State.answer_eq_next {s t : State} {r : Result} :
    (s.answer r = .next t) ↔ t = s.respond .ok r := by
  constructor
  · intro h; cases h; rfl
  · rintro rfl; rfl

@[simp] theorem State.raise_eq_next {s t : State} {e : Status} :
    (s.raise e = .next t) ↔ t = s.respond e .none := by
  constructor
  · intro h; cases h; rfl
  · rintro rfl; rfl

@[simp] theorem badCommand_eq_next {s t : State} :
    (badCommand s = .next t) ↔ t = s.respond .badCommand .none :=
  State.raise_eq_next

@[simp] theorem waitForHost_eq_next {s t : State} : (waitForHost s = .next t) ↔ t = s := by
  constructor
  · intro h; cases h; rfl
  · rintro rfl; rfl

/-! ## The halted gate -/

theorem feGate_fatal {s : State} (h : s.feState = .fatal) (body : Host.Outcome State Fault Refusal) :
    feGate s body = s.raise .feHalted := by
  simp [feGate, h]

theorem feGate_idle {s : State} (h : s.feState = .idle) (body : Host.Outcome State Fault Refusal) :
    feGate s body = body := by
  simp [feGate, h]

/-- A gated command is either refused with FeHalted or runs. -/
theorem feGate_next {s t : State} {body : Host.Outcome State Fault Refusal} (h : feGate s body = .next t) :
    (s.feState = .fatal ∧ t = s.respond .feHalted .none) ∨ (s.feState = .idle ∧ body = .next t) := by
  cases hs : s.feState with
  | fatal => rw [feGate_fatal hs] at h; exact .inl ⟨rfl, State.raise_eq_next.mp h⟩
  | idle => rw [feGate_idle hs] at h; exact .inr ⟨rfl, h⟩

/-! ## Ending a run -/

theorem haltEngine_eq_next {s t : State} {e : Status} {i : Nat} :
    (haltEngine e i s = .next t) ↔
      t = ({ s with feState := .fatal, feErr := e, feErrIdx := BitVec.ofNat 6 i, run := none } : State).respond e
        .none :=
  State.raise_eq_next

theorem abandonPack_eq_next {s t : State} {e : Status} {i : Nat} :
    (abandonPack e i s = .next t) ↔
      t = ({ s with feErr := e, feErrIdx := BitVec.ofNat 6 i, run := none } : State).respond e .none :=
  State.raise_eq_next

theorem abandonUnpack_eq_next {s t : State} {e : Status} {i : Nat} :
    (abandonUnpack e i s = .next t) ↔
      t = ({ s with vqo := [], feErr := e, feErrIdx := BitVec.ofNat 6 i, run := none } : State).respond e .none :=
  State.raise_eq_next

theorem commitPack_next {s t : State} {r : Run} (h : commitPack r s = .next t) :
    s.plen.toNat + r.out.length ≤ Config.pbCap ∧
    t = ({ s with
      pb := s.pb.writeList s.plen.toNat r.out
      plen := BitVec.ofNat 8 (s.plen.toNat + r.out.length)
      vqi := []
      lastU8 := r.last
      feCur := BitVec.ofNat 8 r.out.length
      feErr := .ok
      feErrIdx := s.siglen
      run := none } : State).respond .ok .none := by
  unfold commitPack at h
  split at h
  · cases h
  · exact ⟨by omega, State.complete_eq_next.mp h⟩

theorem commitPack_of_room {s : State} {r : Run} (h : s.plen.toNat + r.out.length ≤ Config.pbCap) :
    commitPack r s = .next (({ s with
      pb := s.pb.writeList s.plen.toNat r.out
      plen := BitVec.ofNat 8 (s.plen.toNat + r.out.length)
      vqi := []
      lastU8 := r.last
      feCur := BitVec.ofNat 8 r.out.length
      feErr := .ok
      feErrIdx := s.siglen
      run := none } : State).respond .ok .none) := by
  unfold commitPack
  rw [if_neg (by omega)]
  rfl

theorem commitUnpack_eq_next {s t : State} {r : Run} :
    (commitUnpack r s = .next t) ↔
      t = ({ s with
        vqo := r.res
        lastU8 := r.last
        feCur := BitVec.ofNat 8 r.cur
        feErr := .ok
        feErrIdx := s.siglen
        run := none } : State).respond .ok .none :=
  State.complete_eq_next

/-! ## One field of a run -/

/-- A pack field that succeeds: its step's bytes fit, and the run moves on by one field. -/
theorem Run.packNext_ok {plen : Nat} {p : PackStep} {v : Value} {r r' : Run} (h : r.packNext plen p v = .ok r') :
    ∃ bs last', p v r.last = .ok (bs, last') ∧ plen + r.out.length + bs.length ≤ Config.pbCap ∧
      r' = { r with idx := r.idx + 1, out := r.out ++ bs, last := last' } := by
  unfold Run.packNext at h
  split at h
  · cases h
  · next bs last' hp =>
    split at h
    · cases h
    · cases h; exact ⟨bs, last', hp, by omega, rfl⟩

/-- A pack field that fails: its step fails, or its bytes do not fit. -/
theorem Run.packNext_error {plen : Nat} {p : PackStep} {v : Value} {r : Run} {e : Status}
    (h : r.packNext plen p v = .error e) :
    p v r.last = .error e ∨
      (e = .bufferFull ∧ ∃ bs last', p v r.last = .ok (bs, last') ∧
        Config.pbCap < plen + r.out.length + bs.length) := by
  unfold Run.packNext at h
  split at h
  · next e' hp => cases h; exact .inl hp
  · next bs last' hp =>
    split at h
    · next hf => cases h; exact .inr ⟨rfl, bs, last', hp, hf⟩
    · cases h

/-- An unpack field that succeeds: the run moves on by one field. -/
theorem Run.unpackNext_ok {rx : List Byte} {u : UnpackStep} {r r' : Run} (h : r.unpackNext rx u = .ok r') :
    ∃ v cur' last', u rx r.cur r.last = .ok (v, cur', last') ∧
      r' = { r with idx := r.idx + 1, cur := cur', last := last', res := r.res ++ [v] } := by
  unfold Run.unpackNext at h
  split at h
  · cases h
  · next v cur' last' hu => cases h; exact ⟨v, cur', last', hu, rfl⟩

/-- An unpack field that fails: its step fails. -/
theorem Run.unpackNext_error {rx : List Byte} {u : UnpackStep} {r : Run} {e : Status}
    (h : r.unpackNext rx u = .error e) : u rx r.cur r.last = .error e := by
  unfold Run.unpackNext at h
  split at h
  · next e' hu => cases h; exact hu
  · cases h

/-- What a field kind does, if it answers a next state: a run is in progress, and it moves on or is abandoned. -/
theorem fieldStep_next {p : PackStep} {u : UnpackStep} {s t : State} (h : fieldStep p u s = .next t) :
    ∃ r, s.run = some r ∧
      ((r.mode = .pack ∧ ∃ v, s.vqi[r.idx]? = some v ∧
          ((∃ r', r.packNext s.plen.toNat p v = .ok r' ∧ t = { s with run := some r' }) ∨
           (∃ e, r.packNext s.plen.toNat p v = .error e ∧ abandonPack e r.idx s = .next t))) ∨
       (r.mode = .unpack ∧
          ((∃ r', r.unpackNext s.received u = .ok r' ∧ t = { s with run := some r' }) ∨
           (∃ e, r.unpackNext s.received u = .error e ∧ abandonUnpack e r.idx s = .next t)))) := by
  unfold fieldStep at h
  split at h
  · cases h
  · next r hr =>
    refine ⟨r, hr, ?_⟩
    split at h
    · next hm =>
      split at h
      · cases h
      · next v hv =>
        refine .inl ⟨hm, v, hv, ?_⟩
        split at h
        · next r' hp => cases h; exact .inl ⟨r', hp, rfl⟩
        · next e hp => exact .inr ⟨e, hp, h⟩
    · next hm =>
      refine .inr ⟨hm, ?_⟩
      split at h
      · next r' hp => cases h; exact .inl ⟨r', hp, rfl⟩
      · next e hp => exact .inr ⟨e, hp, h⟩

/-! ## Runs -/

theorem finishRun_none {s : State} (h : s.run = none) (n : Nat) : finishRun n s = .next s := by
  cases n with
  | zero => rfl
  | succ n => simp [finishRun, h]

theorem finishRun_some {s : State} {r : Run} (h : s.run = some r) (n : Nat) :
    finishRun (n + 1) s =
      match microStep r s with
      | .next s' => finishRun n s'
      | .fault f => .fault f
      | .refused f => .refused f := by
  rw [finishRun]
  split
  · next h' => rw [h'] at h; cases h
  · next r' h' => rw [h'] at h; cases h; rfl

/-- A SIG entry is executed as the field kind it decodes to. -/
theorem execEntry_eq_exec {k : Byte} {i : Instr} (h : decodeKind k = some i) (n : Nat) (s : State) :
    execEntry k n s = exec i s := by
  unfold execEntry
  rw [h]
  unfold decodeKind at h
  split at h <;> cases h <;> rfl

/-- An entry whose code is no field kind halts the engine. -/
theorem execEntry_unknown {k : Byte} (h : decodeKind k = none) (n : Nat) (s : State) :
    execEntry k n s = haltEngine .unknownFieldKind n s := by
  unfold execEntry
  rw [h]

/-- What one step of a run does, if it answers a next state: it executes the SIG entry at the run's index, halts on an
entry that is no field kind, or commits after the last. -/
theorem microStep_next {r : Run} {s t : State} (h : microStep r s = .next t) :
    (r.idx < s.siglen.toNat ∧ r.idx < Config.sigCap ∧
      ((∃ i, decodeKind (s.sig.read r.idx) = some i ∧ exec i s = .next t) ∨
       (decodeKind (s.sig.read r.idx) = none ∧ haltEngine .unknownFieldKind r.idx s = .next t))) ∨
    (s.siglen.toNat ≤ r.idx ∧ commitRun r s = .next t) := by
  unfold microStep at h
  split at h
  · next hi =>
    split at h
    · cases h
    · next hc =>
      refine .inl ⟨hi, by omega, ?_⟩
      cases hk : decodeKind (s.sig.read r.idx) with
      | some i => exact .inl ⟨i, rfl, (execEntry_eq_exec hk _ _).symm.trans h⟩
      | none => exact .inr ⟨rfl, (execEntry_unknown hk _ _).symm.trans h⟩
  · next hi => exact .inr ⟨by omega, h⟩

/-- What appending an input value does, if it answers a next state: VqFull and nothing changed, or the value at VQI's
tail. -/
theorem pushValue_next {v : Value} {s t : State} (h : pushValue v s = .next t) :
    (s.vqi.length = Config.vqCap ∧ t = s.respond .vqFull .none) ∨
    (s.vqi.length ≠ Config.vqCap ∧ t = ({ s with vqi := s.vqi ++ [v] } : State).respond .ok .none) := by
  unfold pushValue at h
  split at h
  · next hl => exact .inl ⟨hl, State.raise_eq_next.mp h⟩
  · next hl => exact .inr ⟨hl, State.complete_eq_next.mp h⟩

/-- What precedes a run, if it answers a next state: the gate refuses, the signature halts the engine, or the run's
own command answers. -/
theorem validated_next {s t : State} {body : Host.Outcome State Fault Refusal} (h : validated s body = .next t) :
    (s.feState = .fatal ∧ t = s.respond .feHalted .none) ∨
    (s.feState = .idle ∧ s.siglen.toNat ≤ Config.sigCap ∧
      ((∃ i e, validate s.signature = some (i, e) ∧ haltEngine e i s = .next t) ∨
       (validate s.signature = none ∧ body = .next t))) := by
  rcases feGate_next h with h | ⟨hi, h⟩
  · exact .inl h
  · refine .inr ⟨hi, ?_⟩
    split at h
    · cases h
    · next hl =>
      refine ⟨by omega, ?_⟩
      split at h
      · next i e hv => exact .inl ⟨i, e, hv, h⟩
      · next hv => exact .inr ⟨hv, h⟩

/-! ## One step -/

theorem step_run {s : State} {r : Run} (h : s.run = some r) : step s = microStep r s := by
  unfold step; rw [h]

theorem step_command {s : State} {i : Instr} {rest : List Byte} (h : s.run = none)
    (hd : decode s.inp = .command i rest) : step s = exec i { s with inp := rest } := by
  unfold step; rw [h]; simp only [hd]

theorem step_unassigned {s : State} {c : Byte} {rest : List Byte} (h : s.run = none)
    (hd : decode s.inp = .unassigned c rest) : step s = badCommand { s with inp := rest } := by
  unfold step; rw [h]; simp only [hd]

theorem step_incomplete {s : State} (h : s.run = none) (hd : decode s.inp = .incomplete) : step s = waitForHost s := by
  unfold step; rw [h]; simp only [hd]

/-- What a step can do, if it answers a next state. -/
theorem step_next {s t : State} (h : step s = .next t) :
    (∃ r, s.run = some r ∧ microStep r s = .next t) ∨
    (s.run = none ∧
      ((∃ i rest, decode s.inp = .command i rest ∧ exec i { s with inp := rest } = .next t) ∨
       (∃ c rest, decode s.inp = .unassigned c rest ∧
          t = ({ s with inp := rest } : State).respond .badCommand .none) ∨
       (decode s.inp = .incomplete ∧ t = s))) := by
  rcases Option.eq_none_or_eq_some s.run with hr | ⟨r, hr⟩
  · refine .inr ⟨hr, ?_⟩
    rcases hd : decode s.inp with ⟨i, rest⟩ | ⟨c, rest⟩ | _
    · exact .inl ⟨i, rest, rfl, step_command hr hd ▸ h⟩
    · exact .inr (.inl ⟨c, rest, rfl, badCommand_eq_next.mp (step_unassigned hr hd ▸ h)⟩)
    · exact .inr (.inr ⟨rfl, waitForHost_eq_next.mp (step_incomplete hr hd ▸ h)⟩)
  · exact .inl ⟨r, hr, step_run hr ▸ h⟩

end Sys2Proof.Machine
end

