-- ==== Sys2Proof/Laws/PerInstr.lean ====
section
/-! SUPPORT. Facts about every instruction as syntax, one lemma per constructor. -/

namespace Sys2Proof.Laws.EncodeLength

open Sys2Proof

/-- An instruction's bytes are as many as its format says (30_encoding.md R85). -/
def Statement (i : Instr) : Prop :=
  (encode i).length = i.byteLength

theorem nop : Statement (.nop) := rfl
theorem reset : Statement (.reset) := rfl
theorem regRd (r : Byte) : Statement (.regRd r) := rfl
theorem crcClr : Statement (.crcClr) := rfl
theorem crcUpd (b : Byte) : Statement (.crcUpd b) := rfl
theorem crcRd : Statement (.crcRd) := rfl
theorem pbClr : Statement (.pbClr) := rfl
theorem pbApp (b : Byte) : Statement (.pbApp b) := rfl
theorem pbRd (i : Byte) : Statement (.pbRd i) := rfl
theorem encFrame : Statement (.encFrame) := rfl
theorem txPop : Statement (.txPop) := rfl
theorem decRst : Statement (.decRst) := rfl
theorem decFeed (b : Byte) : Statement (.decFeed b) := rfl
theorem decTake : Statement (.decTake) := rfl
theorem rxClr : Statement (.rxClr) := rfl
theorem rxApp (b : Byte) : Statement (.rxApp b) := rfl
theorem rxRd (i : Byte) : Statement (.rxRd i) := rfl
theorem feRst : Statement (.feRst) := rfl
theorem sigClr : Statement (.sigClr) := rfl
theorem sigApp (k : Byte) : Statement (.sigApp k) := rfl
theorem vqPushw (w : Word) : Statement (.vqPushw w) := rfl
theorem vqPushb (bs : List Byte) : Statement (.vqPushb bs) := by simp [Statement, encode, Instr.byteLength]; omega
theorem vqiClr : Statement (.vqiClr) := rfl
theorem pack : Statement (.pack) := rfl
theorem unpack : Statement (.unpack) := rfl
theorem vqPop : Statement (.vqPop) := rfl
theorem u8 : Statement (.u8) := rfl
theorem i16 : Statement (.i16) := rfl
theorem u16 : Statement (.u16) := rfl
theorem i32 : Statement (.i32) := rfl
theorem u32 : Statement (.u32) := rfl
theorem f32 : Statement (.f32) := rfl
theorem cstr : Statement (.cstr) := rfl
theorem blob : Statement (.blob) := rfl

end Sys2Proof.Laws.EncodeLength
end

