-- ==== Sys2Proof/Tests/Slice0.lean ====
section
/-! SUPPORT. The model's own tests. Expected words are written out from the encodings of 30_encoding.md, expected
results are the vectors of 95_test_vectors.md and the table of 40_crc.md R122. Then one witness theorem for every
statement that has hypotheses. -/

namespace Sys2Proof.Tests

-- Many small theorems at once cost one thread each; one after the other they need little memory.
set_option Elab.async false

open Sys2Proof Sys2Proof.Machine Sys2Proof.Reference

/-! ## Helpers -/

/-- One step on a state to which the host has just sent these bytes. -/
def sent (s : State) (bs : List Byte) : Host.Outcome State Fault Refusal :=
  step { s with inp := bs }

/-- A view of the next state, none for a fault or a refusal. -/
def seen {α : Type} (f : State → α) : Host.Outcome State Fault Refusal → Option α
  | .next t => some (f t)
  | .fault _ => none
  | .refused _ => none

/-- The bytes of the responses of one step. -/
def reply (s : State) (bs : List Byte) : Option (List Byte) :=
  seen (fun t => t.out.flatMap Response.toBytes) (sent s bs)

/-- A view of the state after one step. -/
def after {α : Type} (f : State → α) (s : State) (bs : List Byte) : Option α :=
  seen f (sent s bs)

/-- A buffer that holds a list of bytes from index 0 on. -/
def held (bs : List Byte) : Memory :=
  Memory.writeList [] 0 bs

/-- Reset, with a payload in PB. -/
def withPayload (bs : List Byte) : State :=
  { State.reset with pb := held bs, plen := BitVec.ofNat 8 bs.length }

/-- Reset, with a received payload in RXB. -/
def withReceived (bs : List Byte) : State :=
  { State.reset with rxb := held bs, rxlen := BitVec.ofNat 8 bs.length }

/-- Reset, with a frame in TXB of which `n` bytes have been popped. -/
def withFrame (bs : List Byte) (n : Byte) : State :=
  { State.reset with txb := held bs, txlen := BitVec.ofNat 8 bs.length, txpos := n }

/-- A state with a signature and input values. -/
def withFields (s : State) (kinds : List Byte) (vs : List Value) : State :=
  { s with sig := held kinds, siglen := BitVec.ofNat 6 kinds.length, vqi := vs }

/-- Reset, with one field of this kind and its value: PACK's status and the bytes in PB. -/
def packed (kinds : List Byte) (vs : List Value) : Option (List Byte × List Byte) :=
  after (fun t => (t.out.flatMap Response.toBytes, t.payload)) (withFields State.reset kinds vs) [0x46]

/-- Reset, with this signature and received payload: UNPACK's status, VQO and FE_CUR. -/
def unpacked (kinds rx : List Byte) : Option (List Byte × List Value × Byte) :=
  after (fun t => (t.out.flatMap Response.toBytes, t.vqo, t.feCur)) (withFields (withReceived rx) kinds []) [0x47]

/-- Reset, with the engine halted by UnknownFieldKind at index 1 (program P6). -/
def haltedState : State :=
  { State.reset with sig := held [0x00, 0x08], siglen := 2, feState := .fatal, feErr := .unknownFieldKind,
                     feErrIdx := 1 }

/-! ## WellFormed (30_encoding.md R83) -/

theorem test_long_string_is_ill_formed : (Instr.vqPushb (List.replicate 256 0x41)).wellFormed = false := by
  decide +kernel

theorem test_longest_string_is_well_formed : (Instr.vqPushb (List.replicate 255 0x41)).wellFormed = true := by
  decide +kernel

theorem test_field_kind_is_no_command : Instr.isCommand .blob = false ∧ Instr.isCommand .pack = true := by decide

/-! ## Decode: one word for every constructor, from 30_encoding.md sections 3 and 5 -/

theorem test_decode_block_control :
    decode [0x00] = .command .nop [] ∧ decode [0x01] = .command .reset [] ∧
    decode [0x02, 0x0E, 0x00] = .command (.regRd 0x0E) [0x00] := by decide

theorem test_decode_crc :
    decode [0x10, 0xFF] = .command .crcClr [0xFF] ∧ decode [0x11, 0x5E] = .command (.crcUpd 0x5E) [] ∧
    decode [0x12] = .command .crcRd [] := by decide

theorem test_decode_encoder :
    decode [0x20] = .command .pbClr [] ∧ decode [0x21, 0x02] = .command (.pbApp 0x02) [] ∧
    decode [0x22, 0xFE] = .command (.pbRd 0xFE) [] ∧ decode [0x23] = .command .encFrame [] ∧
    decode [0x24] = .command .txPop [] := by decide

theorem test_decode_decoder :
    decode [0x30] = .command .decRst [] ∧ decode [0x31, 0xD5] = .command (.decFeed 0xD5) [] ∧
    decode [0x32] = .command .decTake [] ∧ decode [0x38] = .command .rxClr [] ∧
    decode [0x39, 0x86] = .command (.rxApp 0x86) [] ∧ decode [0x3A, 0x00] = .command (.rxRd 0x00) [] := by decide

theorem test_decode_field_engine :
    decode [0x40] = .command .feRst [] ∧ decode [0x41] = .command .sigClr [] ∧
    decode [0x42, 0x04] = .command (.sigApp 0x04) [] ∧
    decode [0x43, 0x2E, 0xFF, 0xFF, 0xFF] = .command (.vqPushw 0xFFFFFF2E) [] ∧
    decode [0x44, 0x02, 0x68, 0x69, 0x46] = .command (.vqPushb [0x68, 0x69]) [0x46] ∧
    decode [0x45] = .command .vqiClr [] ∧ decode [0x46] = .command .pack [] ∧ decode [0x47] = .command .unpack [] ∧
    decode [0x48] = .command .vqPop [] := by decide

theorem test_decode_field_kinds :
    [0x00, 0x01, 0x02, 0x03, 0x04, 0x05, 0x06, 0x07, 0x08].map decodeKind =
      [some .u8, some .i16, some .u16, some .i32, some .u32, some .f32, some .cstr, some .blob, none] := by decide

theorem test_decode_unassigned_and_incomplete :
    decode [0x03, 0x00] = .unassigned 0x03 [0x00] ∧ decode [0x49] = .unassigned 0x49 [] ∧
    decode [0xFF] = .unassigned 0xFF [] ∧ decode [] = .incomplete ∧ decode [0x43, 0x01, 0x02, 0x03] = .incomplete ∧
    decode [0x44, 0x02, 0x68] = .incomplete := by decide

theorem test_table_words :
    decodeTableWord 16 0x3111 = some (.crcUpd 0x31) ∧ decodeTableWord 40 0x0403020143 = some (.vqPushw 0x04030201) ∧
    decodeTableWord 16 0x0044 = some (.vqPushb []) ∧ decodeTableWord 8 0x07 = some .blob ∧
    decodeTableWord 8 0x49 = none := by decide

/-! ## CRC-8 -/

theorem test_crc_table : (List.range 256).map (fun i => crcTable (BitVec.ofNat 8 i)) = printedTable := by
  decide +kernel

theorem test_crc8_vectors :
    crc8 [0x31, 0x32, 0x33, 0x34, 0x35, 0x36, 0x37, 0x38, 0x39] = 0xA1 ∧ crc8 [0x0A, 0x00, 0x02] = 0xD6 ∧
    crc8 (List.replicate 32 0xFF) = 0xCA := by decide +kernel

theorem test_crcClr : after State.crc { State.reset with crc := 0xA1 } [0x10] = some 0x00 := by decide

theorem test_crcUpd :
    after State.crc State.reset [0x11, 0x01] = some 0x5E ∧
    after State.crc { State.reset with crc := 0x5E } [0x11, 0x5E] = some 0x00 := by decide

theorem test_crcRd : reply { State.reset with crc := 0xA1 } [0x12] = some [0x00, 0xA1] := by decide

/-! ## Block control -/

theorem test_nop : sent haltedState [0x00] = .next { haltedState with out := [okay] } := by rfl

theorem test_reset :
    after (fun t => (t.siglen, t.feState, t.feErr, t.payload, t.out)) haltedState [0x01] =
      some (0, .idle, .ok, [], [okay]) := by decide

theorem test_regRd :
    reply { State.reset with dstate := .error, derr := .checksumMismatch } [0x02, 0x05] =
      some [0x00, 0x03, 0x00, 0x00, 0x00] ∧ reply State.reset [0x02, 0x13] = some [0x0A] := by decide

theorem test_status_word :
    reply { withFrame [0xD5, 0x00, 0x00] 0 with dstate := .ready, vqo := [.word 1], feState := .fatal } [0x02, 0x12] =
      some [0x00, 0x1B, 0x00, 0x00, 0x00] := by decide

theorem test_bad_command :
    reply State.reset [0x3B] = some [0x0B] ∧ after State.inp State.reset [0x03, 0x10] = some [0x10] := by decide

theorem test_status_codes :
    [Status.ok, .invalidHeader, .payloadTooLarge, .checksumMismatch, .decoderHalted, .decoderFull, .notReady, .txBusy,
      .txEmpty, .bufferFull, .badOperand, .badCommand, .unknownFieldKind, .malformedSignature, .feHalted,
      .valueCountMismatch, .valueKindMismatch, .blobLengthMismatch, .shortBuffer, .vqFull, .vqEmpty,
      .sigFull].map (fun e => e.code.toNat) =
      [0x00, 0x01, 0x02, 0x03, 0x04, 0x05, 0x06, 0x07, 0x08, 0x09, 0x0A, 0x0B] ++
      [0x10, 0x11, 0x12, 0x13, 0x14, 0x15, 0x16, 0x17, 0x18, 0x19] := by decide

/-! ## Frame encoder -/

theorem test_pbClr : after State.payload (withPayload [0x02]) [0x20] = some [] := by decide

theorem test_pbApp :
    after State.payload (withPayload [0x07]) [0x21, 0x02] = some [0x07, 0x02] ∧
    reply { State.reset with plen := 255 } [0x21, 0x01] = some [0x09] := by decide

theorem test_pbRd :
    reply { withPayload [] with pb := [(254, 0x42)], plen := 255 } [0x22, 0xFE] = some [0x00, 0x42] ∧
    reply { State.reset with plen := 255 } [0x22, 0xFF] = some [0x0A] := by decide

theorem test_encFrame :
    after (fun t => (t.frame, t.txpos)) (withPayload [0xD5]) [0x23] = some ([0xD5, 0x01, 0xD5, 0x68], 0) := by
  decide +kernel

theorem test_encFrame_refused :
    reply { withFrame [0xD5, 0x01, 0x02, 0xBC] 1 with plen := 33 } [0x23] = some [0x07] ∧
    reply { State.reset with plen := 33 } [0x23] = some [0x02] := by decide

theorem test_txPop :
    reply (withFrame [0xD5, 0x01, 0x02, 0xBC] 3) [0x24] = some [0x00, 0xBC] ∧
    reply (withFrame [0xD5, 0x01, 0x02, 0xBC] 4) [0x24] = some [0x08] := by decide

/-! ## Frame decoder and receive buffer -/

theorem test_decFeed_last_data :
    after (fun t => (t.dstate, t.db, t.dcnt, t.dcrc))
      { State.reset with dstate := .waitData, dexp := 1 } [0x31, 0xD5] =
      some (.waitCrc, [(0, 0xD5)], 1, 0x68) := by decide

theorem test_decFeed_errors :
    after (fun t => (t.dstate, t.derr)) State.reset [0x31, 0x7E] = some (.error, .invalidHeader) ∧
    after (fun t => (t.dstate, t.dexp)) { State.reset with dstate := .waitLength } [0x31, 0x20] =
      some (.waitData, 32) ∧
    after (fun t => (t.dstate, t.derr, t.dexp)) { State.reset with dstate := .waitLength } [0x31, 0x21] =
      some (.error, .payloadTooLarge, 0) := by decide

theorem test_decTake :
    after (fun t => (t.received, t.dstate, t.dexp))
      { withReceived [0x86, 0x02] with dstate := .ready, db := held [0x81], dexp := 1, dcnt := 1, dcrc := 0xD2 }
      [0x32] = some ([0x81], .waitHeader, 0) ∧ reply State.reset [0x32] = some [0x06] := by decide

theorem test_decRst :
    after (fun t => (t.dstate, t.derr, t.received))
      { withReceived [0x81] with dstate := .error, derr := .checksumMismatch } [0x30] =
      some (.waitHeader, .none, [0x81]) := by decide

theorem test_rxClr : after State.rxlen { State.reset with rxlen := 5 } [0x38] = some 0 := by decide

theorem test_rxApp :
    after State.received State.reset [0x39, 0x86] = some [0x86] ∧
    reply { State.reset with rxlen := 255 } [0x39, 0x00] = some [0x09] := by decide

theorem test_rxRd :
    reply (withReceived [0x81]) [0x3A, 0x00] = some [0x00, 0x81] ∧
    reply (withReceived [0x81]) [0x3A, 0x01] = some [0x0A] := by decide

/-! ## Field engine -/

theorem test_feRst :
    after (fun t => (t.siglen, t.feState, t.feErr, t.feErrIdx, t.payload))
      { haltedState with pb := held [0x02], plen := 1 } [0x40] = some (0, .idle, .ok, 0, [0x02]) := by decide

theorem test_sigClr :
    after State.siglen (withFields State.reset [0x00, 0x00] []) [0x41] = some 0 ∧
    reply haltedState [0x41] = some [0x12] := by decide

theorem test_sigApp :
    after State.signature (withFields State.reset [0x00] []) [0x42, 0x08] = some [0x00, 0x08] ∧
    reply { State.reset with siglen := 32 } [0x42, 0x00] = some [0x19] := by decide

theorem test_vqPushw :
    after State.vqi State.reset [0x43, 0x2E, 0xFF, 0xFF, 0xFF] = some [.word 0xFFFFFF2E] ∧
    reply { State.reset with vqi := List.replicate 32 (.word 0) } [0x43, 0x01, 0x00, 0x00, 0x00] = some [0x17] := by
  decide

theorem test_vqPushb :
    after State.vqi { State.reset with vqi := [.word 1] } [0x44, 0x02, 0x68, 0x69] =
      some [.word 1, .bytes [0x68, 0x69]] ∧
    after State.vqi State.reset [0x44, 0x00] = some [.bytes []] := by decide

theorem test_vqiClr : after State.vqi { State.reset with vqi := [.word 1, .word 2] } [0x45] = some [] := by decide

theorem test_vqPop :
    reply { State.reset with vqo := [.bytes [0x61, 0x2E, 0x78, 0x33, 0x67], .word 1] } [0x48] =
      some [0x00, 0x01, 0x05, 0x61, 0x2E, 0x78, 0x33, 0x67] ∧ reply State.reset [0x48] = some [0x18] := by decide

theorem test_pack :
    after (fun t => (t.payload, t.feCur, t.lastU8, t.vqi, t.feErrIdx))
      (withFields State.reset [0x00, 0x02] [.word 0x0A, .word 0x1234]) [0x46] =
      some ([0x0A, 0x34, 0x12], 3, 0x0A, [], 2) := by decide +kernel

theorem test_pack_priority :
    after (fun t => (t.out.flatMap Response.toBytes, t.feState, t.feErrIdx))
      (withFields State.reset [0x00, 0x08] [.word 1]) [0x46] = some ([0x10], .fatal, 1) ∧
    packed [0x07, 0x08] [] = some ([0x11], []) ∧ packed [0x00, 0x06] [.word 1] = some ([0x13], []) ∧
    reply { withFields State.reset [0x06] [.word 1] with plen := 255 } [0x46] = some [0x14] := by decide +kernel

theorem test_unpack :
    after (fun t => (t.vqo, t.feCur, t.lastU8, t.vqi))
      { withFields (withReceived [0x81, 0xE8, 0x03, 0x00, 0x00]) [0x00, 0x04] [.word 5] with vqo := [.word 7] }
      [0x47] = some ([.word 0x81, .word 0x3E8], 5, 0x81, [.word 5]) := by decide +kernel

theorem test_unpack_short :
    after (fun t => (t.out.flatMap Response.toBytes, t.vqo, t.feErrIdx))
      { withFields (withReceived [0x05]) [0x00, 0x00] [] with vqo := [.word 7] } [0x47] =
      some ([0x16], [], 1) := by decide +kernel

/-! ## Field kinds (95_test_vectors.md section 2.5) -/

theorem test_u8 :
    packed [0x00] [.word 0x1FF] = some ([0x00], [0xFF]) ∧ unpacked [0x00] [0xFF] = some ([0x00], [.word 0xFF], 1) := by
  decide +kernel

theorem test_i16 :
    packed [0x01] [.word 0x00012345] = some ([0x00], [0x45, 0x23]) ∧
    unpacked [0x01] [0x2E, 0xFF] = some ([0x00], [.word 0xFFFFFF2E], 2) := by decide +kernel

theorem test_u16 :
    packed [0x02] [.word 0xBEEF] = some ([0x00], [0xEF, 0xBE]) ∧
    unpacked [0x02] [0xEF, 0xBE] = some ([0x00], [.word 0x0000BEEF], 2) := by decide +kernel

theorem test_i32 :
    packed [0x03] [.word 0xFFFFFFFE] = some ([0x00], [0xFE, 0xFF, 0xFF, 0xFF]) ∧
    unpacked [0x03] [0xFE, 0xFF, 0xFF, 0xFF] = some ([0x00], [.word 0xFFFFFFFE], 4) := by decide +kernel

theorem test_u32 :
    packed [0x04] [.word 1000] = some ([0x00], [0xE8, 0x03, 0x00, 0x00]) ∧
    unpacked [0x04] [0xE8, 0x03, 0x00, 0x00] = some ([0x00], [.word 0x000003E8], 4) := by decide +kernel

theorem test_f32 :
    packed [0x05] [.word 0x7FC00001] = some ([0x00], [0x01, 0x00, 0xC0, 0x7F]) ∧
    unpacked [0x05] [0x01, 0x00, 0xC0, 0x7F] = some ([0x00], [.word 0x7FC00001], 4) := by decide +kernel

theorem test_cstr :
    packed [0x06] [.bytes []] = some ([0x00], [0x00]) ∧
    unpacked [0x06] [0x61, 0x62] = some ([0x00], [.bytes [0x61, 0x62]], 2) ∧
    unpacked [0x06, 0x00] [0x61, 0x62, 0x00, 0x07] = some ([0x00], [.bytes [0x61, 0x62], .word 7], 4) := by
  decide +kernel

theorem test_blob :
    packed [0x00, 0x07] [.word 2, .bytes [0xAA, 0xBB]] = some ([0x00], [0x02, 0xAA, 0xBB]) ∧
    unpacked [0x00, 0x07] [0x02, 0xAA, 0xBB] = some ([0x00], [.word 2, .bytes [0xAA, 0xBB]], 3) ∧
    packed [0x00, 0x07] [.word 3, .bytes [0x01, 0x02]] = some ([0x15], []) ∧
    unpacked [0x00, 0x07] [0x03, 0xAA, 0xBB] = some ([0x16], [], 0) := by decide +kernel

/-! ## The interface with the host -/

theorem test_reset_memories :
    (State.reset.pb.wf 255 && State.reset.txb.wf 35 && State.reset.db.wf 32 && State.reset.rxb.wf 255 &&
      State.reset.sig.wf 32) = true := by decide

theorem test_fetch_word :
    step (State.reset.withFetchWord 16 0x0121) = exec (.pbApp 0x01) State.reset := by rfl

theorem test_fetch_kind :
    seen State.run (step (State.reset.withFetchWord 8 0x06)) =
      some (some { mode := .unpack, idx := 1, out := [], cur := 0, last := 0, res := [.bytes []] }) := by decide

theorem test_assemble_line :
    assembleLine 0 ['V', 'Q', '.', 'P', 'U', 'S', 'H', 'W', ' ', '-', '2', '1', '0', ' ', ';', 'x'] =
      some [.vqPushw 0xFFFFFF2E] := by decide +kernel

/-! ## Witnesses: states and operands that meet the hypotheses of the statements, clause by clause -/

theorem witness_DecodeReadsBackEveryCommand :
    Instr.isCommand (.vqPushb (List.replicate 255 0xFF)) = true ∧ Instr.isCommand .reset = true := by decide +kernel

theorem witness_CommandBytesAreUnique :
    decode [0x44, 0x01, 0x61, 0x00] = .command (.vqPushb [0x61]) [0x00] ∧ decode [0x48] = .command .vqPop [] := by
  decide

theorem witness_UnassignedCodeIsBadCommand :
    (∀ c ∈ ([0x03, 0x0F, 0x13, 0x1F, 0x25, 0x2F, 0x33, 0x37, 0x3B, 0x3F, 0x49, 0xFF] : List Byte), Unassigned c) ∧
    (∀ c ∈ ([0x02, 0x10, 0x12, 0x20, 0x24, 0x30, 0x32, 0x38, 0x3A, 0x40, 0x48] : List Byte), ¬ Unassigned c) ∧
    ({ State.reset with inp := [0x03, 0x00] } : State).run = none := by
  unfold Unassigned
  decide

/-- A command has been delivered, and another byte after it. -/
def delivered : State :=
  { State.reset with inp := [0x21, 0x5A, 0x46] }

theorem witness_StepExecutesDecodedCommand :
    delivered.run = none ∧ Instr.isCommand (.pbApp 0x5A) = true ∧
    delivered.inp = encode (.pbApp 0x5A) ++ [0x46] := by decide

/-- An UNPACK run of [U8, U16] in progress: at field 1, the second byte of RXB. -/
def midUnpack : State :=
  { withFields (withReceived [0x7F, 0x34, 0x12]) [0x00, 0x02] [] with
    run := some { mode := .unpack, idx := 1, out := [], cur := 1, last := 0x7F, res := [.word 0x7F] } }

/-- A PACK run in progress, at field 1 of [U8, BLOB]: one byte packed, `last` is 2. -/
def midPack (v : Value) : State :=
  { withFields State.reset [0x00, 0x07] [.word 2, v] with
    run := some { mode := .pack, idx := 1, out := [0x02], cur := 0, last := 0x02, res := [] } }

/-- A run that has processed every field, with 32 of them. -/
def allFieldsDone : State :=
  { State.reset with siglen := 32, vqi := List.replicate 32 (.word 0),
                     run := some { mode := .pack, idx := 32, out := List.replicate 32 0, cur := 0, last := 0,
                                   res := [] } }

theorem witness_StepExecutesSignatureEntry :
    midUnpack.run.map Run.idx = some 1 ∧ 1 < midUnpack.siglen.toNat ∧
    decodeKind (midUnpack.sig.read 1) = some .u16 ∧
    allFieldsDone.run.map Run.idx = some 32 ∧ allFieldsDone.siglen.toNat ≤ 32 := by decide

theorem witness_IncompleteCommandWaits :
    ({ State.reset with inp := [0x44, 0x02, 0x68] } : State).inp = (encode (.vqPushb [0x68, 0x69])).take 3 ∧
    3 < (encode (.vqPushb [0x68, 0x69])).length ∧ State.reset.inp = (encode .nop).take 0 ∧
    0 < (encode .nop).length ∧ State.reset.run = none := by decide

theorem witness_FieldKindCodesReadBack : Instr.isFieldKind .blob = true ∧ 8 ≤ (0x08 : Byte).toNat := by decide

theorem witness_WrittenWordsDecode :
    (List.replicate 255 (0x41 : Byte)).length ≤ 255 ∧ ([] : List Byte).length ≤ 255 := by decide +kernel

theorem witness_ResponseBytes :
    (List.replicate 255 (0x00 : Byte)).length ≤ 255 ∧ Instr.isFieldKind .txPop = false ∧ State.reset.run = none ∧
    exec .txPop State.reset = .next { State.reset with out := [failed .txEmpty] } ∧ (failed .txEmpty).status ≠ .ok :=
  ⟨(List.length_replicate).le, rfl, rfl, rfl, by decide⟩

theorem witness_CrcUnitFoldsBytes :
    ({ State.reset with inp := [0x10, 0x11, 0x31, 0x11, 0x32] } : State).inp =
      commandBytes (.crcClr :: [0x31, 0x32].map .crcUpd) := by decide

theorem witness_PayloadClearAndRead :
    (0xFE : Byte).toNat < ({ State.reset with plen := 255 } : State).plen.toNat ∧
    ({ State.reset with plen := 255 } : State).plen.toNat ≤ (0xFF : Byte).toNat ∧
    State.reset.plen.toNat ≤ (0x00 : Byte).toNat := by decide

theorem witness_PayloadAppend :
    ({ State.reset with plen := 255 } : State).plen.toNat = 255 ∧
    ({ State.reset with plen := 254 } : State).plen.toNat ≠ 255 ∧ State.reset.plen.toNat ≠ 255 := by decide

/-- A frame of 35 bytes with its last byte still to be popped. -/
def lastByteWaiting : State :=
  withFrame (frameOf (List.replicate 32 0x00)) 34

theorem witness_EncodeFrame :
    lastByteWaiting.txpos.toNat < lastByteWaiting.txlen.toNat ∧
    (withPayload (List.replicate 33 0x00)).txlen.toNat ≤ (withPayload (List.replicate 33 0x00)).txpos.toNat ∧
    32 < (withPayload (List.replicate 33 0x00)).plen.toNat ∧
    (withPayload (List.replicate 32 0x00)).plen.toNat ≤ 32 := by decide +kernel

theorem witness_TransmitPop :
    State.reset.txpos = State.reset.txlen ∧ lastByteWaiting.txpos ≠ lastByteWaiting.txlen ∧
    lastByteWaiting.txpos.toNat < 35 := by decide +kernel

/-- A payload in PB, and SEND with one more TX.POP at the port. -/
def sending (p : List Byte) : State :=
  { withPayload p with inp := 0x23 :: List.replicate (p.length + 4) 0x24 }

theorem witness_SendPopsTheEncodedFrame :
    ∀ p ∈ ([[], [0x02], List.replicate 32 0xFF] : List (List Byte)),
      (sending p).run = none ∧ (sending p).txlen.toNat ≤ (sending p).txpos.toNat ∧ (sending p).plen.toNat ≤ 32 ∧
      (sending p).inp = commandBytes (send (sending p).plen.toNat ++ [.txPop]) := by decide +kernel

/-- Reset, with the decoder in another state. -/
def decoderAt (d : DecState) : State :=
  { State.reset with dstate := d }

theorem witness_DecFeedFollowsTransitionTable :
    (decoderAt .waitHeader).dstate = .waitHeader ∧ (decoderAt .waitLength).dstate = .waitLength ∧
    (0xD5 : Byte) = 0xD5 ∧ (0xD4 : Byte) ≠ 0xD5 ∧ (0x01 : Byte) ≠ 0 ∧ (0x20 : Byte) ≠ 0 ∧
    (0x20 : Byte).toNat ≤ 32 ∧ 32 < (0x21 : Byte).toNat ∧
    ({ decoderAt .waitData with dexp := 32, dcnt := 31 } : State).dcnt.toNat < 32 ∧
    ({ decoderAt .waitCrc with dcrc := 0xD2 } : State).dcrc = 0xD2 ∧
    (0xD3 : Byte) ≠ ({ decoderAt .waitCrc with dcrc := 0xD2 } : State).dcrc ∧
    (decoderAt .ready).dstate = .ready := by decide

theorem witness_OnlyResetLeavesDecoderError :
    (decoderAt .error).dstate = .error ∧ exec (.pbApp 0x01) (decoderAt .error) =
      .next { decoderAt .error with pb := [(0, 0x01)], plen := 1, out := [okay] } := by
  constructor <;> rfl

theorem witness_DecoderNeverResynchronises :
    ({ decoderAt .error with inp := [0x31, 0xD5, 0x31, 0x00] } : State).inp = commandBytes (decFeeds [0xD5, 0x00]) ∧
    ({ decoderAt .waitHeader with inp := [0x31, 0x00, 0x31, 0xD5] } : State).inp =
      commandBytes (decFeeds (0x00 :: [0xD5])) ∧ (0x00 : Byte) ≠ 0xD5 ∧ (decoderAt .error).run = none := by decide

theorem witness_TakeAndResetDecoder :
    ({ decoderAt .ready with dexp := 32, dcnt := 32 } : State).dexp.toNat ≤ 32 ∧
    (decoderAt .ready).dexp.toNat ≤ 32 ∧ (decoderAt .waitCrc).dstate ≠ .ready := by decide

theorem witness_ReceiveClearAndRead :
    (0xFE : Byte).toNat < ({ State.reset with rxlen := 255 } : State).rxlen.toNat ∧
    ({ State.reset with rxlen := 255 } : State).rxlen.toNat ≤ (0xFF : Byte).toNat := by decide

theorem witness_ReceiveAppend :
    ({ State.reset with rxlen := 255 } : State).rxlen.toNat = 255 ∧
    ({ State.reset with rxlen := 254 } : State).rxlen.toNat ≠ 255 := by decide

/-- The frame of a payload at the port as DEC.FEED commands, with a DEC.TAKE after it. -/
def receiving (p : List Byte) : State :=
  { State.reset with inp := commandBytes (decFeeds (frameOf p) ++ [.decTake]) }

theorem witness_FrameRoundTrip :
    (receiving []).inp = [0x31, 0xD5, 0x31, 0x00, 0x31, 0x00, 0x32] ∧
    (receiving (List.replicate 32 0x00)).run = none ∧ (List.replicate 32 (0x00 : Byte)).length ≤ 32 ∧
    (receiving [0x02]).dstate = .waitHeader ∧ (receiving [0x02]).derr = .none := by decide +kernel

theorem witness_DecoderFailsFast :
    ({ State.reset with inp := [0x31, 0xD5, 0x31, 0x01, 0x31, 0x81, 0x31, 0xD3] } : State).inp =
      commandBytes (decFeeds ([0xD5, BitVec.ofNat 8 [(0x81 : Byte)].length] ++ [0x81] ++ [0xD3])) ∧
    (0xD3 : Byte) ≠ crc8 [0x81] ∧
    ({ State.reset with inp := [0x31, 0xD5, 0x31, 0x21] } : State).inp = commandBytes (decFeeds [0xD5, 0x21]) ∧
    32 < (0x21 : Byte).toNat := by decide +kernel

theorem witness_FieldEngineClears : State.reset.feState = .idle ∧ haltedState.feState = .fatal := by decide

theorem witness_SignatureAppend :
    haltedState.feState = .fatal ∧ ({ State.reset with siglen := 32 } : State).siglen.toNat = 32 ∧
    ({ State.reset with siglen := 31 } : State).siglen.toNat < 32 ∧ State.reset.siglen.toNat < 32 ∧
    ({ State.reset with siglen := 31 } : State).feState = .idle := by decide

theorem witness_ValuePush :
    haltedState.feState = .fatal ∧
    ({ State.reset with vqi := List.replicate 32 (.word 0) } : State).vqi.length = 32 ∧
    ({ State.reset with vqi := List.replicate 31 (.word 0) } : State).vqi.length ≠ 32 ∧
    State.reset.feState = .idle := by decide

theorem witness_ValuePop :
    haltedState.feState = .fatal ∧ State.reset.vqo = [] ∧ State.reset.feState = .idle ∧
    ({ State.reset with vqo := [.word 0x81] } : State).vqo = .word 0x81 :: [] := by decide

theorem witness_HaltedGate :
    haltedState.feState = .fatal ∧ Instr.isGated .vqPop = true ∧ Instr.isGated .nop = false ∧
    exec .nop haltedState = .next { haltedState with out := [okay] } :=
  ⟨rfl, rfl, rfl, rfl⟩

/-- Reset, with a signature whose entry 1 is an unknown code. -/
def unknownKind : State :=
  withFields State.reset [0x00, 0x08] []

/-- Reset, with a signature whose entry 0 is a BLOB and whose entry 1 is an unknown code. -/
def misplacedBlob : State :=
  withFields State.reset [0x07, 0x08] []

theorem witness_ValidationHaltsAtLowestIndex :
    unknownKind.feState = .idle ∧ unknownKind.siglen.toNat ≤ 32 ∧ 1 < unknownKind.siglen.toNat ∧
    entryFailure unknownKind 1 = some .unknownFieldKind ∧ (∀ j, j < 1 → entryFailure unknownKind j = none) ∧
    entryFailure misplacedBlob 0 = some .malformedSignature := by decide

/-- [U8, I16, U8, BLOB, CSTR] and matching values: program P5. -/
def recordState : State :=
  withFields State.reset [0x00, 0x01, 0x00, 0x07, 0x06]
    [.word 0x0A, .word 0xFFFFFF2E, .word 2, .bytes [0xAA, 0xBB], .bytes [0x68, 0x69]]

/-- The bytes of `recordState`'s fields: program P5. -/
def recordBytes : List Byte :=
  [0x0A, 0x2E, 0xFF, 0x02, 0xAA, 0xBB, 0x68, 0x69, 0x00]

/-- The receiving side of program P5. -/
def recordReceived : State :=
  withFields (withReceived recordBytes) [0x00, 0x01, 0x00, 0x07, 0x06] []

theorem witness_PackNeedsOneValuePerField :
    recordReceived.feState = .idle ∧ recordReceived.siglen.toNat ≤ 32 ∧ firstFailure recordReceived = none ∧
    recordReceived.vqi.length ≠ recordReceived.siglen.toNat := by decide

theorem witness_PackFollowsPseudocode :
    recordState.siglen.toNat ≤ 32 ∧ ({ State.reset with siglen := 32 } : State).siglen.toNat ≤ 32 := by decide

theorem witness_PackCommitsEveryField :
    recordState.feState = .idle ∧ recordState.siglen.toNat ≤ 32 ∧ firstFailure recordState = none ∧
    recordState.vqi.length = recordState.siglen.toNat ∧ packFields recordState = .ok (recordBytes, 0x02) := by
  refine ⟨?_, ?_, ?_, ?_, rfl⟩ <;> decide

theorem witness_UnpackFollowsPseudocode : recordReceived.siglen.toNat ≤ 32 := by decide

theorem witness_UnpackCommitsEveryField :
    recordReceived.feState = .idle ∧ recordReceived.siglen.toNat ≤ 32 ∧ firstFailure recordReceived = none ∧
    unpackFields recordReceived = .ok (recordState.vqi, 9, 0x02) := by
  refine ⟨?_, ?_, ?_, rfl⟩ <;> decide

theorem witness_FailedRunCommitsNothing :
    firstFailure (withFields State.reset [0x00] [.bytes []]) = none ∧
    packFields (withFields State.reset [0x00] [.bytes []]) = .error (.valueKindMismatch, 0) ∧
    packFields (withFields State.reset [0x00, 0x07] [.word 3, .bytes []]) = .error (.blobLengthMismatch, 1) ∧
    packFields { withFields State.reset [0x04] [.word 1] with plen := 252 } = .error (.bufferFull, 0) ∧
    unpackFields (withFields (withReceived [0x05]) [0x00, 0x00] []) = .error (.shortBuffer, 1) :=
  ⟨rfl, rfl, rfl, rfl, rfl⟩

theorem witness_FieldRoundTrip :
    recordState.feState = .idle ∧ recordState.siglen.toNat ≤ 32 ∧ firstFailure recordState = none ∧
    recordState.vqi.length = recordState.siglen.toNat ∧ recordState.plen = 0 ∧
    ((recordState.signature.zip recordState.vqi).map fun f => fieldWidth f.1 f.2).sum = 9 ∧
    recordReceived.siglen = recordState.siglen ∧ recordReceived.signature = recordState.signature ∧
    seen State.payload (exec .pack recordState) = some recordReceived.received ∧
    recordReceived.received = recordBytes := by decide +kernel

theorem witness_FieldRoundTrip_values :
    (∀ f ∈ recordState.signature.zip recordState.vqi, Matches f.1 f.2) ∧
    BlobLengthsFit (recordState.signature.zip recordState.vqi) := by
  have h : recordState.signature.zip recordState.vqi =
      [(0x00, .word 0x0A), (0x01, .word 0xFFFFFF2E), (0x00, .word 2), (0x07, .bytes [0xAA, 0xBB]),
        (0x06, .bytes [0x68, 0x69])] := by decide
  rw [h]
  refine ⟨by simp [Matches], fun i hi => ?_⟩
  match i, hi with
  | 0, hi => simp at hi
  | 1, hi => simp at hi
  | 2, _ => exact ⟨2, [0xAA, 0xBB], rfl, rfl, rfl⟩
  | 3, hi => simp at hi
  | _ + 4, hi => simp at hi

theorem witness_RunIsItsMicrosteps :
    recordState.feState = .idle ∧ recordState.siglen.toNat ≤ 32 ∧ validate recordState.signature = none ∧
    recordState.inp = [] ∧ recordState.vqi.length = recordState.siglen.toNat := by decide

theorem witness_EarlierLastU8HasNoEffect :
    recordState.siglen.toNat ≤ 32 ∧ recordState.feState = .idle ∧
    seen State.feErr (exec .pack recordState) = some .ok ∧
    seen State.feErr (exec .unpack recordReceived) = some .ok := by decide +kernel

theorem witness_LoadingLeavesTheListedBytes :
    ({ State.reset with inp := [0x20, 0x21, 0x07] } : State).inp = commandBytes (pbLoad [0x07]) ∧
    ({ State.reset with inp := [0x38] } : State).inp = commandBytes (rxLoad []) ∧
    ({ State.reset with inp := [0x41, 0x42, 0x00, 0x42, 0x04] } : State).inp = commandBytes (sigLoad [0x00, 0x04]) ∧
    (List.replicate 255 (0x00 : Byte)).length ≤ 255 ∧ (List.replicate 32 (0x00 : Byte)).length ≤ 32 ∧
    State.reset.run = none ∧ State.reset.feState = .idle := by decide +kernel

/-- The run that a state holds, as the statements name it. -/
def runOf (s : State) : Run :=
  s.run.getD (Run.start .pack)

theorem witness_NumericPackSteps :
    (midPack (.word 5)).run = some (runOf (midPack (.word 5))) ∧ (runOf (midPack (.word 5))).mode = .pack ∧
    (midPack (.word 5)).vqi[(runOf (midPack (.word 5))).idx]? = some (.word 5) ∧
    ({ midPack (.word 5) with plen := 253 } : State).plen.toNat + 1 + 1 ≤ 255 ∧
    ({ midPack (.word 5) with plen := 252 } : State).plen.toNat + 1 + 2 ≤ 255 ∧
    ({ midPack (.word 5) with plen := 250 } : State).plen.toNat + 1 + 4 ≤ 255 ∧
    (midPack (.bytes [])).vqi[(runOf (midPack (.bytes []))).idx]? = some (.bytes []) := by decide

/-- An UNPACK run at its first field, with these bytes in RXB. -/
def unpackStart (rx : List Byte) : State :=
  { withReceived rx with siglen := 1, run := some (Run.start .unpack) }

theorem witness_NumericUnpackSteps :
    (unpackStart [1, 2, 3, 4]).run = some (Run.start .unpack) ∧ (Run.start .unpack).mode = .unpack ∧
    [0, 1, 2, 3].map (fun k => (unpackStart [1, 2, 3, 4]).received[(Run.start .unpack).cur + k]?) =
      [some 1, some 2, some 3, some 4] ∧
    (unpackStart []).rxlen.toNat < (Run.start .unpack).cur + 1 ∧
    (unpackStart [1]).rxlen.toNat < (Run.start .unpack).cur + 2 ∧
    (unpackStart [1, 2, 3]).rxlen.toNat < (Run.start .unpack).cur + 4 := by decide

theorem witness_StringPackSteps :
    (midPack (.bytes [1, 2])).vqi[(runOf (midPack (.bytes [1, 2]))).idx]? = some (.bytes [1, 2]) ∧
    ({ midPack (.bytes [1, 2]) with plen := 251 } : State).plen.toNat + 1 + 2 + 1 ≤ 255 ∧
    [(1 : Byte), 2].length = (runOf (midPack (.bytes [1, 2]))).last.toNat ∧
    ({ midPack (.bytes [1, 2]) with plen := 252 } : State).plen.toNat + 1 + 2 ≤ 255 ∧
    [(1 : Byte)].length ≠ (runOf (midPack (.bytes [1]))).last.toNat ∧
    (midPack (.word 5)).vqi[(runOf (midPack (.word 5))).idx]? = some (.word 5) := by decide

theorem witness_CstrUnpackStep :
    (unpackStart [0x61, 0x00]).received[1]? = some 0x00 ∧
    (∀ k, 0 ≤ k → k < 1 → (unpackStart [0x61, 0x00]).received[k]? ≠ some 0x00) ∧
    (unpackStart [0x00]).received[0]? = some 0x00 ∧ (unpackStart []).received = [] := by
  refine ⟨by decide, fun k _ hk => ?_, by decide, by decide⟩
  obtain rfl : k = 0 := by omega
  decide

theorem witness_BlobUnpackStep :
    (runOf midUnpack).cur + (2 : Byte).toNat ≤ midUnpack.rxlen.toNat ∧ (runOf midUnpack).mode = .unpack ∧
    midUnpack.rxlen.toNat < (runOf midUnpack).cur + (runOf midUnpack).last.toNat := by decide

theorem witness_PackFieldWithoutRoom :
    (midPack (.bytes [1, 2])).run = some (runOf (midPack (.bytes [1, 2]))) ∧ encode .cstr = [0x06] ∧
    packField 0x06 (.bytes [1, 2]) (runOf (midPack (.bytes [1, 2]))).last = .ok ([1, 2, 0], 2) ∧
    255 < ({ midPack (.bytes [1, 2]) with plen := 252 } : State).plen.toNat + 1 + 3 :=
  ⟨rfl, rfl, rfl, by decide⟩

theorem witness_RegisterRead :
    (registerList haltedState)[(0x0E : Byte).toNat]? = some 0x10 ∧ 0x12 < (0x13 : Byte).toNat ∧
    (registerList haltedState)[(0x12 : Byte).toNat]? = some 0x08 := by decide

theorem witness_ResetStateRegisters :
    exec .reset haltedState = .next { State.reset with out := [okay] } ∧ (0x12 : Byte).toNat ≤ 0x12 := ⟨rfl, by decide⟩

/-- A state in the middle of everything: a frame half sent, a frame half received, and an UNPACK run in progress. -/
def busy : State :=
  { midUnpack with
    crc := 0x5E, pb := [(0, 0x02)], plen := 1, txb := held [0xD5, 0x01, 0x02, 0xBC], txlen := 4, txpos := 2,
    dstate := .waitData, dexp := 2, dcnt := 1, dcrc := 0xD2, db := [(0, 0x81)], vqo := [.bytes [0x61]] }

/-- `busy`, with other bytes where nothing can be observed. -/
def busyHidden : State :=
  { busy with pb := [(0, 0x02), (200, 0x42)], db := [(0, 0x81), (1, 0x42)], sig := [(1, 0x02), (31, 0x99)] }

theorem busy_inv : Inv busy where
  memories := by unfold MemoriesOk; decide
  encoder := ⟨by decide, .inr ⟨[0x02], by decide, by decide, by decide +kernel⟩⟩
  decoder := ⟨by decide, by decide +kernel, by decide, show (1 : Nat) < 2 by decide⟩
  engine := ⟨by decide, by decide, by decide, by intro v hv; simp [busy, midUnpack, withFields] at hv,
    by simp [busy, Value.Legal, Config.bytesMax], by decide, by decide⟩
  noBadRun := ⟨by decide, by decide, by decide, by decide, by decide, by simp [Value.Legal]⟩

theorem busyHidden_inv : Inv busyHidden where
  memories := by unfold MemoriesOk; decide
  encoder := busy_inv.encoder
  decoder := ⟨by decide, by decide +kernel, by decide, show (1 : Nat) < 2 by decide⟩
  engine := busy_inv.engine
  noBadRun := ⟨by decide, by decide, by decide, by decide, by decide, by simp [Value.Legal]⟩

theorem witness_StepKeepsInvariant : Inv busy ∧ (seen State.run (step busy)).isSome = true :=
  ⟨busy_inv, by decide⟩

theorem witness_StepKeepsBuffersCanonical : MemoriesOk busy ∧ (seen State.run (step busy)).isSome = true :=
  ⟨busy_inv.memories, by decide⟩

theorem witness_HiddenBytesAreUnobservable : Inv busy ∧ Inv busyHidden ∧ Agree busy busyHidden ∧ busy ≠ busyHidden :=
  ⟨busy_inv, busyHidden_inv, by unfold Agree SameBelow; decide, by decide⟩

theorem witness_CommandsTouchOnlyTheirUnit :
    exec (.pbApp 0x02) State.reset = .next { State.reset with pb := [(0, 0x02)], plen := 1, out := [okay] } ∧
    Instr.pbApp 0x02 ≠ .reset ∧ Instr.isFieldKind (.pbApp 0x02) = false ∧
    (seen State.run (exec .u16 midUnpack)).isSome = true ∧ Instr.isFieldKind .u16 = true :=
  ⟨rfl, by decide, rfl, by decide, rfl⟩

theorem witness_OnlyResetClearsHalt :
    haltedState.feState = .fatal ∧ Instr.isFieldKind .pack = false ∧ Instr.pack ≠ .feRst ∧ Instr.pack ≠ .reset ∧
    exec .pack haltedState = .next { haltedState with out := [failed .feHalted] } :=
  ⟨rfl, rfl, by decide, by decide, rfl⟩

theorem witness_OneResponsePerCommand :
    Instr.isFieldKind .unpack = false ∧ recordReceived.run = none ∧
    (seen State.out (exec .unpack recordReceived)) = some [okay] := by decide +kernel

theorem witness_FailedCommandChangesOnlyListed :
    Instr.isFieldKind .unpack = false ∧ unknownKind.run = none ∧
    exec .unpack unknownKind = .next { failureEffect unknownKind .unpack 1 .unknownFieldKind with
                                       out := [failed .unknownFieldKind] } ∧
    Status.unknownFieldKind ≠ .ok ∧ 1 < unknownKind.siglen.toNat ∧
    exec (.decFeed 0xD5) (decoderAt .ready) = .next { decoderAt .ready with out := [failed .decoderFull] } ∧
    exec .pack recordReceived = .next { failureEffect recordReceived .pack 0 .valueCountMismatch with
                                        out := [failed .valueCountMismatch] } :=
  ⟨rfl, rfl, rfl, by decide, by decide, rfl, rfl⟩

theorem witness_StopsOutsideLegalStates :
    Instr.isFieldKind .u8 = true ∧ State.reset.run = none ∧
    (35 : Nat) ≤ ({ State.reset with txpos := 35 } : State).txpos.toNat ∧
    32 ≤ ({ decoderAt .waitData with dcnt := 32 } : State).dcnt.toNat ∧
    32 < ({ decoderAt .ready with dexp := 33 } : State).dexp.toNat ∧
    32 < ({ State.reset with siglen := 33 } : State).siglen.toNat := by decide

end Sys2Proof.Tests
end

/-! Settles O49: the bits of the computed STATUS word (10_state.md R49). -/

namespace Sys2Proof.Machine

theorem State.txPending_iff (s : State) : s.txPending = true ↔ s.txpos.toNat < s.txlen.toNat :=
  decide_eq_true_iff

/-- A flag at a bit position within the word sets that bit to the flag and every other bit to 0. -/
theorem getLsbD_flagAt (b : Bool) {n : Nat} (hn : n < 32) (i : Nat) :
    (flagAt b n).getLsbD i = (b && decide (n = i)) := by
  cases b with
  | false => exact BitVec.getLsbD_zero
  | true =>
    have hbit : (BitVec.twoPow 32 n).getLsbD i = (decide (n < 32) && decide (n = i)) := BitVec.getLsbD_twoPow n i
    rw [decide_eq_true hn] at hbit
    exact hbit

/-- Every bit of STATUS at once: the five flags, each at its own position. -/
theorem State.getLsbD_statusWord (s : State) (i : Nat) :
    s.statusWord.getLsbD i =
      (s.txPending && decide (0 = i) || (s.dstate == .ready) && decide (1 = i) ||
        (s.dstate == .error) && decide (2 = i) || (s.feState == .fatal) && decide (3 = i) ||
        (!s.vqo.isEmpty) && decide (4 = i)) := by
  simp (disch := decide) only [State.statusWord, BitVec.getLsbD_or, getLsbD_flagAt]

theorem State.getLsbD_statusWord_reserved (s : State) {i : Nat} (hi : 5 ≤ i) : s.statusWord.getLsbD i = false := by
  have no_flag : ∀ k, k < 5 → decide (k = i) = false := fun k hk => decide_eq_false (by omega)
  simp [State.getLsbD_statusWord, no_flag]

/-- Settles O49: each flag bit is read off the word's bit equation, and no flag stands at bit 5 or above. -/
theorem statusWordBits : Obligations.StatusWordBits := by
  intro s
  refine ⟨?txp, ?drdy, ?derrf, ?fef, ?vqoNe, fun n hn => s.getLsbD_statusWord_reserved hn⟩
  case txp => rw [State.getLsbD_statusWord]; simp [State.txPending_iff]
  case drdy => rw [State.getLsbD_statusWord]; simp
  case derrf => rw [State.getLsbD_statusWord]; simp
  case fef => rw [State.getLsbD_statusWord]; simp
  case vqoNe => rw [State.getLsbD_statusWord]; simp

end Sys2Proof.Machine

/-! Settles O3: the unassigned codes of 30_encoding.md R89. -/

namespace Sys2Proof.Machine

open Sys2Proof.Reference

theorem decode_unassigned {c : Byte} (h : Unassigned c) (rest : List Byte) :
    decode (c :: rest) = .unassigned c rest := by
  unfold Unassigned at h
  simp only [decode]
  split
  case h_27 => rfl
  -- Every other arm of the decoder names an assigned code, which lies in none of the six ranges.
  all_goals omega

/-- The numbers of the unassigned codes: the six ranges of R89, each by its first code and its size. -/
def unassignedNumbers : List Nat :=
  List.range' 0x03 13 ++ List.range' 0x13 13 ++ List.range' 0x25 11 ++ List.range' 0x33 5 ++ List.range' 0x3B 5 ++
    List.range' 0x49 183

theorem length_unassignedNumbers : unassignedNumbers.length = 230 := by
  simp [unassignedNumbers]

theorem toNat_mem_unassignedNumbers (c : Byte) : c.toNat ∈ unassignedNumbers ↔ Unassigned c := by
  simp only [unassignedNumbers, Unassigned, List.mem_append, List.mem_range'_1]
  omega

theorem lt_of_mem_unassignedNumbers {n : Nat} (h : n ∈ unassignedNumbers) : n < 2 ^ 8 := by
  simp only [unassignedNumbers, List.mem_append, List.mem_range'_1] at h
  omega

/-- The ranges are disjoint, since they stand in rising order. -/
theorem nodup_unassignedNumbers : unassignedNumbers.Nodup := by
  simp only [unassignedNumbers, List.nodup_append, List.mem_append, List.mem_range'_1]
  refine ⟨⟨⟨⟨⟨List.nodup_range', List.nodup_range', ?_⟩, List.nodup_range', ?_⟩, List.nodup_range', ?_⟩,
    List.nodup_range', ?_⟩, List.nodup_range', ?_⟩
  all_goals intros; omega

theorem mem_map_ofNat_iff {w : Nat} {l : List Nat} (h : ∀ n ∈ l, n < 2 ^ w) (c : BitVec w) :
    c ∈ l.map (BitVec.ofNat w) ↔ c.toNat ∈ l := by
  rw [List.mem_map]
  constructor
  · rintro ⟨n, hn, rfl⟩
    rwa [BitVec.toNat_ofNat, Nat.mod_eq_of_lt (h n hn)]
  · exact fun hc => ⟨c.toNat, hc, by simp⟩

theorem nodup_map_ofNat {w : Nat} {l : List Nat} (h : ∀ n ∈ l, n < 2 ^ w) (hl : l.Nodup) :
    (l.map (BitVec.ofNat w)).Nodup := by
  refine hl.map_on fun m hm n hn hmn => ?_
  simpa only [BitVec.toNat_ofNat, Nat.mod_eq_of_lt (h m hm), Nat.mod_eq_of_lt (h n hn)] using
    congrArg BitVec.toNat hmn

/-- Settles O3: the decoder reads an unassigned code as one byte, and the codes are the bytes of the six ranges. -/
theorem unassignedCodeIsBadCommand : Obligations.UnassignedCodeIsBadCommand := by
  refine ⟨fun s c rest hc hrun hinp => ?step, unassignedNumbers.map (BitVec.ofNat 8), ?nodup, ?count, fun c => ?mem⟩
  case step =>
    have hd : decode s.inp = .unassigned c rest := hinp ▸ decode_unassigned hc rest
    exact step_unassigned hrun hd
  case nodup => exact nodup_map_ofNat (fun _ => lt_of_mem_unassignedNumbers) nodup_unassignedNumbers
  case count => rw [List.length_map, length_unassignedNumbers]
  case mem => rw [mem_map_ofNat_iff fun _ => lt_of_mem_unassignedNumbers, toNat_mem_unassignedNumbers]

end Sys2Proof.Machine

/-! Settles O9: the bytes of a response (30_encoding.md R86, R87). -/

namespace Sys2Proof.Machine

open Sys2Proof.Reference

theorem Status.code_eq_statusNumber (e : Status) : e.code = BitVec.ofNat 8 (statusNumber e) := by
  cases e <;> rfl

theorem Response.toBytes_of_no_result {r : Response} (h : r.result = .none) :
    r.toBytes = [BitVec.ofNat 8 (statusNumber r.status)] := by
  rw [Response.toBytes, h, Status.code_eq_statusNumber]
  rfl

/-! ### What a completed command leaves at the command port -/

/-- From `s`, a command has completed in `t`: no run is left, no command byte is taken, and one response is appended,
with a result only when its status is OK. -/
structure Completed (s t : State) : Prop where
  run : t.run = none
  inp : t.inp = s.inp
  response : ∃ r, t.out = s.out ++ [r] ∧ (r.status ≠ .ok → r.result = .none)

/-- An operation that answers a next state at all completes its command from `s`. -/
def Completes (s : State) (o : Host.Outcome State Fault Refusal) : Prop :=
  ∀ t, o = .next t → Completed s t

/-- `u` differs from `s` in block state alone: the command port is as in `s`, and no run is in progress. -/
structure AtPort (s u : State) : Prop where
  run : u.run = none
  inp : u.inp = s.inp
  out : u.out = s.out

section
variable {s u : State}

theorem AtPort.completed_respond (h : AtPort s u) {e : Status} {r : Result} (hr : e ≠ .ok → r = .none) :
    Completed s (u.respond e r) where
  run := h.run
  inp := h.inp
  response := ⟨{ status := e, result := r }, by rw [State.respond_out, h.out], hr⟩

theorem AtPort.completes_complete (h : AtPort s u) : Completes s u.complete :=
  fun _ ht => State.complete_eq_next.mp ht ▸ h.completed_respond fun _ => rfl

theorem AtPort.completes_raise {e : Status} (h : AtPort s u) : Completes s (u.raise e) :=
  fun _ ht => State.raise_eq_next.mp ht ▸ h.completed_respond fun _ => rfl

theorem AtPort.completes_answer {r : Result} (h : AtPort s u) : Completes s (u.answer r) :=
  fun _ ht => State.answer_eq_next.mp ht ▸ h.completed_respond fun hok => absurd rfl hok

theorem completes_fault (f : Fault) : Completes s (.fault f) := by
  intro t h
  cases h

theorem completes_ite {c : Prop} [Decidable c] {a b : Host.Outcome State Fault Refusal} (ha : Completes s a)
    (hb : Completes s b) : Completes s (if c then a else b) := by
  split
  · exact ha
  · exact hb

theorem completes_feGate (hs : s.run = none) {body : Host.Outcome State Fault Refusal} (h : Completes s body) :
    Completes s (feGate s body) :=
  completes_ite (AtPort.completes_raise ⟨hs, rfl, rfl⟩) h

theorem completes_pushValue (hs : s.run = none) (v : Value) : Completes s (pushValue v s) :=
  completes_ite (AtPort.completes_raise ⟨hs, rfl, rfl⟩) (AtPort.completes_complete ⟨hs, rfl, rfl⟩)

theorem completes_framingError (hs : s.run = none) (d : DecErr) (e : Status) : Completes s (framingError d e s) :=
  AtPort.completes_raise ⟨hs, rfl, rfl⟩

theorem completes_haltEngine (e : Status) (i : Nat) : Completes s (haltEngine e i s) :=
  AtPort.completes_raise ⟨rfl, rfl, rfl⟩

theorem completes_abandonPack (e : Status) (i : Nat) : Completes s (abandonPack e i s) :=
  AtPort.completes_raise ⟨rfl, rfl, rfl⟩

theorem completes_abandonUnpack (e : Status) (i : Nat) : Completes s (abandonUnpack e i s) :=
  AtPort.completes_raise ⟨rfl, rfl, rfl⟩

theorem completes_commitRun (r : Run) : Completes s (commitRun r s) := by
  unfold commitRun
  split
  · exact completes_ite (completes_fault _) (AtPort.completes_complete ⟨rfl, rfl, rfl⟩)
  · exact AtPort.completes_complete ⟨rfl, rfl, rfl⟩

theorem completes_validated (hs : s.run = none) {body : Host.Outcome State Fault Refusal} (h : Completes s body) :
    Completes s (validated s body) := by
  refine completes_feGate hs (completes_ite (completes_fault _) ?_)
  split
  · exact completes_haltEngine _ _
  · exact h

end

/-! ### Runs -/

/-- From `s`, the run `r` has moved on by one field in `t`, with the signature's length and the command port as before. -/
structure MovesOn (s t : State) (r : Run) : Prop where
  run : ∃ r', t.run = some r' ∧ r'.idx = r.idx + 1
  siglen : t.siglen = s.siglen
  inp : t.inp = s.inp
  out : t.out = s.out

theorem exec_eq_fieldStep {k : Byte} {i : Instr} (h : decodeKind k = some i) :
    ∃ p u, ∀ s, exec i s = fieldStep p u s := by
  unfold decodeKind at h
  split at h <;> cases h
  exacts [⟨packU8, unpackU8, fun _ => rfl⟩, ⟨packI16, unpackI16, fun _ => rfl⟩, ⟨packU16, unpackU16, fun _ => rfl⟩,
    ⟨packI32, unpackI32, fun _ => rfl⟩, ⟨packU32, unpackU32, fun _ => rfl⟩, ⟨packF32, unpackF32, fun _ => rfl⟩,
    ⟨packCstr, unpackCstr, fun _ => rfl⟩, ⟨packBlob, unpackBlob, fun _ => rfl⟩]

theorem fieldStep_movesOn_or_completed {p : PackStep} {u : UnpackStep} {s t : State} {r : Run} (hr : s.run = some r)
    (h : fieldStep p u s = .next t) : MovesOn s t r ∨ Completed s t := by
  obtain ⟨r₀, hr₀, hstep⟩ := fieldStep_next h
  obtain rfl : r = r₀ := Option.some.inj (hr.symm.trans hr₀)
  rcases hstep with ⟨_, v, _, ⟨r', hok, rfl⟩ | ⟨e, _, he⟩⟩ | ⟨_, ⟨r', hok, rfl⟩ | ⟨e, _, he⟩⟩
  · obtain ⟨bs, last', _, _, rfl⟩ := Run.packNext_ok hok
    exact .inl ⟨⟨_, rfl, rfl⟩, rfl, rfl, rfl⟩
  · exact .inr (completes_abandonPack e r.idx t he)
  · obtain ⟨v, cur', last', _, rfl⟩ := Run.unpackNext_ok hok
    exact .inl ⟨⟨_, rfl, rfl⟩, rfl, rfl, rfl⟩
  · exact .inr (completes_abandonUnpack e r.idx t he)

/-- One step of a run moves on to the next field of the signature, or completes the command. -/
theorem microStep_movesOn_or_completed {s t : State} {r : Run} (hr : s.run = some r) (h : microStep r s = .next t) :
    (r.idx < s.siglen.toNat ∧ MovesOn s t r) ∨ Completed s t := by
  rcases microStep_next h with ⟨hidx, _, ⟨i, hk, hi⟩ | ⟨_, hhalt⟩⟩ | ⟨_, hcommit⟩
  · obtain ⟨p, u, hexec⟩ := exec_eq_fieldStep hk
    exact (fieldStep_movesOn_or_completed hr (hexec s ▸ hi)).imp_left fun hm => ⟨hidx, hm⟩
  · exact .inr (completes_haltEngine _ _ t hhalt)
  · exact .inr (completes_commitRun r t hcommit)

/-- With a step for each field left and one for the commit, a run ends, and its command completes. -/
theorem completes_finishRun (n : Nat) {s : State} {r : Run} (hr : s.run = some r) (hidx : r.idx ≤ s.siglen.toNat)
    (hn : s.siglen.toNat < r.idx + n) : Completes s (finishRun n s) := by
  induction n generalizing s r with
  | zero => omega
  | succ n ih =>
    intro t ht
    rw [finishRun_some hr] at ht
    split at ht
    case h_2 | h_3 => cases ht
    case h_1 s' hstep =>
      rcases microStep_movesOn_or_completed hr hstep with ⟨hlt, hm⟩ | hc
      · obtain ⟨r', hr', hidx'⟩ := hm.run
        have hrest : Completed s' t :=
          ih hr' (by rw [hm.siglen, hidx']; exact hlt) (by rw [hm.siglen, hidx']; omega) t ht
        exact ⟨hrest.run, hrest.inp.trans hm.inp, hm.out ▸ hrest.response⟩
      · rw [finishRun_none hc.run] at ht
        cases ht
        exact hc

theorem completes_runAll (mode : RunMode) (s : State) : Completes s (runAll mode s) := by
  intro t ht
  obtain ⟨hrun, hinp, hresponse⟩ :=
    completes_finishRun (s.siglen.toNat + 1) (s.beginRun_run mode) (Nat.zero_le _)
      (by rw [State.beginRun_siglen]; exact Nat.lt_add_left _ (Nat.lt_succ_self _)) t ht
  exact ⟨hrun, hinp, hresponse⟩

/-! ### Every command -/

theorem completes_execRegRd {s : State} (hs : s.run = none) (r : Byte) : Completes s (execRegRd r s) := by
  have hport : AtPort s s := ⟨hs, rfl, rfl⟩
  unfold execRegRd
  split
  · exact hport.completes_answer
  · exact hport.completes_raise

theorem completes_execDecFeed {s : State} (hs : s.run = none) (b : Byte) : Completes s (execDecFeed b s) := by
  have hport : AtPort s s := ⟨hs, rfl, rfl⟩
  unfold execDecFeed
  split
  · exact completes_ite (AtPort.completes_complete ⟨hs, rfl, rfl⟩) (completes_framingError hs _ _)
  · exact completes_ite (completes_framingError hs _ _) (AtPort.completes_complete ⟨hs, rfl, rfl⟩)
  · exact completes_ite (completes_fault _) (AtPort.completes_complete ⟨hs, rfl, rfl⟩)
  · exact completes_ite (AtPort.completes_complete ⟨hs, rfl, rfl⟩) (completes_framingError hs _ _)
  · exact hport.completes_raise
  · exact hport.completes_raise

theorem completes_execVqPop {s : State} (hs : s.run = none) : Completes s (execVqPop s) := by
  refine completes_feGate hs ?_
  split
  · exact AtPort.completes_raise ⟨hs, rfl, rfl⟩
  · exact AtPort.completes_answer ⟨hs, rfl, rfl⟩

/-- Every command that answers a next state completes: one response, and a result in it only on OK. -/
theorem exec_completes {i : Instr} (hi : i.isFieldKind = false) {s : State} (hs : s.run = none) :
    Completes s (exec i s) := by
  have hport : AtPort s s := ⟨hs, rfl, rfl⟩
  cases i with
  | u8 | i16 | u16 | i32 | u32 | f32 | cstr | blob => cases hi
  | nop => exact hport.completes_complete
  | reset | feRst => exact AtPort.completes_complete ⟨rfl, rfl, rfl⟩
  | crcClr | crcUpd | pbClr | decRst | rxClr => exact AtPort.completes_complete ⟨hs, rfl, rfl⟩
  | regRd r => exact completes_execRegRd hs r
  | crcRd => exact hport.completes_answer
  | pbApp | rxApp => exact completes_ite hport.completes_raise (AtPort.completes_complete ⟨hs, rfl, rfl⟩)
  | pbRd | rxRd => exact completes_ite hport.completes_raise hport.completes_answer
  | encFrame =>
    exact completes_ite hport.completes_raise
      (completes_ite hport.completes_raise (AtPort.completes_complete ⟨hs, rfl, rfl⟩))
  | txPop =>
    exact completes_ite hport.completes_raise
      (completes_ite (completes_fault _) (AtPort.completes_answer ⟨hs, rfl, rfl⟩))
  | decFeed b => exact completes_execDecFeed hs b
  | decTake =>
    exact completes_ite (completes_ite (completes_fault _) (AtPort.completes_complete ⟨hs, rfl, rfl⟩))
      hport.completes_raise
  | sigClr | vqiClr => exact completes_feGate hs (AtPort.completes_complete ⟨hs, rfl, rfl⟩)
  | sigApp k =>
    exact completes_feGate hs (completes_ite hport.completes_raise
      (completes_ite (completes_fault _) (AtPort.completes_complete ⟨hs, rfl, rfl⟩)))
  | vqPushw | vqPushb => exact completes_feGate hs (completes_pushValue hs _)
  | pack => exact completes_validated hs (completes_ite (completes_runAll _ _) (completes_abandonPack _ _))
  | unpack => exact completes_validated hs (completes_runAll _ _)
  | vqPop => exact completes_execVqPop hs

/-- Settles O9: the result forms are the definition of the bytes, and a failed command's response has no result. -/
theorem responseBytes : Obligations.ResponseBytes := by
  refine ⟨fun _ => Response.toBytes_of_no_result rfl, fun _ => rfl, fun _ => rfl, fun _ => rfl, fun _ _ => rfl, ?_⟩
  intro s t i r hi hs ht hout hne
  obtain ⟨r', hr', hresult⟩ := (exec_completes hi hs t ht).response
  obtain rfl : r = r' := by simpa using hout.symm.trans hr'
  exact Response.toBytes_of_no_result (hresult hne)

end Sys2Proof.Machine

/-! Settles O14, O12, O13 and O15: the frame encoder (41_frame_encoder.md). -/

namespace Sys2Proof.Machine

/-! ### What each command of the frame encoder answers, branch by branch -/

section
variable {s : State}

theorem exec_pbApp_full {b : Byte} (h : s.plen.toNat = 255) : exec (.pbApp b) s = s.raise .bufferFull :=
  if_pos h

theorem exec_pbApp_room {b : Byte} (h : s.plen.toNat ≠ 255) :
    exec (.pbApp b) s =
      State.complete { s with pb := s.pb.write s.plen.toNat b, plen := s.plen + 1 } :=
  if_neg h

theorem exec_pbRd_outside {i : Byte} (h : s.plen.toNat ≤ i.toNat) : exec (.pbRd i) s = s.raise .badOperand :=
  if_pos h

theorem exec_pbRd_inside {i : Byte} (h : i.toNat < s.plen.toNat) :
    exec (.pbRd i) s = s.answer (.byte (s.pb.read i.toNat)) :=
  if_neg (Nat.not_le.mpr h)

theorem exec_encFrame_pending (h : s.txpos.toNat < s.txlen.toNat) : exec .encFrame s = s.raise .txBusy :=
  if_pos (s.txPending_iff.mpr h)

/-- With no frame pending, only the length of the payload decides. -/
theorem exec_encFrame_idle (h : s.txlen.toNat ≤ s.txpos.toNat) :
    exec .encFrame s =
      if 32 < s.plen.toNat then s.raise .payloadTooLarge
      else State.complete { s with
        txb := s.txb.writeList 0 (frameOf s.payload), txlen := s.plen + 3, txpos := 0 } :=
  if_neg fun hp => Nat.not_lt.mpr h (s.txPending_iff.mp hp)

theorem exec_encFrame_tooLarge (h : s.txlen.toNat ≤ s.txpos.toNat) (hlen : 32 < s.plen.toNat) :
    exec .encFrame s = s.raise .payloadTooLarge := by
  rw [exec_encFrame_idle h, if_pos hlen]

theorem exec_encFrame_fits (h : s.txlen.toNat ≤ s.txpos.toNat) (hlen : s.plen.toNat ≤ 32) :
    exec .encFrame s =
      State.complete { s with txb := s.txb.writeList 0 (frameOf s.payload), txlen := s.plen + 3, txpos := 0 } := by
  rw [exec_encFrame_idle h, if_neg (Nat.not_lt.mpr hlen)]

theorem exec_txPop_empty (h : s.txpos = s.txlen) : exec .txPop s = s.raise .txEmpty :=
  if_pos h

theorem exec_txPop_byte (h : s.txpos ≠ s.txlen) (hcap : s.txpos.toNat < 35) :
    exec .txPop s =
      State.answer { s with txpos := s.txpos + 1 } (.byte (s.txb.read s.txpos.toNat)) :=
  (if_neg h).trans (if_neg (Nat.not_le.mpr hcap))

end

/-! ### The frame of a payload, and its length -/

@[simp] theorem length_frameOf (p : List Byte) : (frameOf p).length = p.length + 3 := by
  simp [frameOf]

@[simp] theorem State.length_payload (s : State) : s.payload.length = s.plen.toNat :=
  s.pb.length_slice s.plen.toNat

/-- The length byte of the payload's frame is PLEN itself. -/
theorem State.frameOf_payload (s : State) :
    frameOf s.payload = [0xD5, s.plen] ++ s.payload ++ [crc8 s.payload] := by
  have hlen : BitVec.ofNat 8 s.payload.length = s.plen := by
    rw [s.length_payload, BitVec.ofNat_toNat, BitVec.setWidth_eq]
  rw [frameOf, hlen]
  rfl

/-- Settles O14: the frame is PLEN + 3 bytes long, so TXLEN does not wrap and TXB[0..TXLEN) is all of it. -/
theorem encodeFrame : Obligations.EncodeFrame := by
  intro s
  refine ⟨exec_encFrame_pending, exec_encFrame_tooLarge, fun hidle hlen => ?fits⟩
  have htxlen : (s.plen + 3).toNat = (frameOf s.payload).length := by
    rw [length_frameOf, s.length_payload]
    bv_omega
  refine ⟨_, exec_encFrame_fits hidle hlen, ?frame, fun a ha => ?outside, ?txlen, rfl⟩
  case frame =>
    calc (s.txb.writeList 0 (frameOf s.payload)).slice (s.plen + 3).toNat
      _ = frameOf s.payload := by rw [htxlen, Memory.slice_writeList_zero]
      _ = [0xD5, s.plen] ++ s.payload ++ [crc8 s.payload] := s.frameOf_payload
  case outside => exact Memory.read_writeList_outside _ _ _ _ (.inr (by simpa using ha))
  case txlen => simpa using htxlen

/-- Settles O12: the two outcomes of PB.RD are the two sides of its range check. -/
theorem payloadClearAndRead : Obligations.PayloadClearAndRead :=
  fun _ => ⟨rfl, fun _ => ⟨exec_pbRd_inside, exec_pbRd_outside⟩⟩

/-- Settles O13: a write to one entry of PB leaves the others, and PLEN below 255 does not wrap. -/
theorem payloadAppend : Obligations.PayloadAppend := by
  intro s b
  refine ⟨exec_pbApp_full, fun hroom => ⟨_, exec_pbApp_room hroom, ?stored, fun a ha => ?others, ?plen, rfl⟩⟩
  case stored => exact Memory.read_write_same _ _ _
  case others => exact Memory.read_write_ne _ _ ha
  case plen =>
    show (s.plen + 1).toNat = s.plen.toNat + 1
    bv_omega

/-- Settles O15: TXPOS below TXB's capacity does not wrap. -/
theorem transmitPop : Obligations.TransmitPop := by
  intro s
  refine ⟨exec_txPop_empty, fun hne hcap => ⟨_, exec_txPop_byte hne hcap, ?txpos, rfl⟩⟩
  show (s.txpos + 1).toNat = s.txpos.toNat + 1
  bv_omega

end Sys2Proof.Machine

/-! Settles O17, O18, O19, O20, O21 and O22: the frame decoder and the receive buffer (42_frame_decoder.md). -/

namespace Sys2Proof

/-- The instructions that drive the frame decoder, and RESET. -/
def Instr.drivesDecoder : Instr → Bool
  | .reset | .decRst | .decFeed _ | .decTake => true
  | _ => false

namespace Machine

open Sys2Proof.Reference

theorem toNat_add_one {b : Byte} (h : b.toNat ≠ 255) : (b + 1).toNat = b.toNat + 1 := by
  bv_omega

/-- Copying the first `n` entries of a buffer to the front of another makes those entries the same. -/
theorem Memory.read_writeList_slice {n a : Nat} (m m' : Memory) (h : a < n) :
    Memory.read (Memory.writeList m 0 (Memory.slice m' n)) a = Memory.read m' a := by
  have ha : a < (Memory.slice m' n).length := by rwa [Memory.length_slice]
  calc Memory.read (Memory.writeList m 0 (Memory.slice m' n)) a
    _ = Memory.read (Memory.writeList m 0 (Memory.slice m' n)) (0 + a) := by rw [Nat.zero_add]
    _ = (Memory.slice m' n)[a] := Memory.read_writeList_inside _ _ _ _ ha
    _ = Memory.read m' a := Memory.getElem_slice _ _ _ _

/-! ### What each command of the decoder and the receive buffer answers, branch by branch -/

section
variable {s : State} {b : Byte}

theorem exec_decFeed_waitHeader (h : s.dstate = .waitHeader) : exec (.decFeed b) s = feedWaitHeader b s := by
  simp only [exec, execDecFeed, h]

theorem exec_decFeed_waitLength (h : s.dstate = .waitLength) : exec (.decFeed b) s = feedWaitLength b s := by
  simp only [exec, execDecFeed, h]

theorem exec_decFeed_waitData (h : s.dstate = .waitData) : exec (.decFeed b) s = feedWaitData b s := by
  simp only [exec, execDecFeed, h]

theorem exec_decFeed_waitCrc (h : s.dstate = .waitCrc) : exec (.decFeed b) s = feedWaitCrc b s := by
  simp only [exec, execDecFeed, h]

theorem exec_decFeed_ready (h : s.dstate = .ready) : exec (.decFeed b) s = s.raise .decoderFull := by
  simp only [exec, execDecFeed, h]

theorem exec_decFeed_error (h : s.dstate = .error) : exec (.decFeed b) s = s.raise .decoderHalted := by
  simp only [exec, execDecFeed, h]

theorem exec_decFeed_start (h : s.dstate = .waitHeader) (hb : b = 0xD5) :
    exec (.decFeed b) s = State.complete { s with dstate := .waitLength } :=
  (exec_decFeed_waitHeader h).trans (if_pos hb)

theorem exec_decFeed_badHeader (h : s.dstate = .waitHeader) (hb : b ≠ 0xD5) :
    exec (.decFeed b) s = framingError .invalidHeader .invalidHeader s :=
  (exec_decFeed_waitHeader h).trans (if_neg hb)

theorem exec_decFeed_length (h : s.dstate = .waitLength) (hb : b.toNat ≤ 32) :
    exec (.decFeed b) s =
      State.complete { s with dexp := b, dcnt := 0, dcrc := 0x00, dstate := if b = 0 then .waitCrc else .waitData } :=
  (exec_decFeed_waitLength h).trans (if_neg (Nat.not_lt.mpr hb))

theorem exec_decFeed_tooLong (h : s.dstate = .waitLength) (hb : 32 < b.toNat) :
    exec (.decFeed b) s = framingError .payloadTooLarge .payloadTooLarge s :=
  (exec_decFeed_waitLength h).trans (if_pos hb)

theorem exec_decFeed_data (h : s.dstate = .waitData) (hcap : s.dcnt.toNat < 32) :
    exec (.decFeed b) s =
      State.complete { s with
        db := s.db.write s.dcnt.toNat b, dcnt := s.dcnt + 1, dcrc := crcUpdate s.dcrc b,
        dstate := if s.dcnt + 1 = s.dexp then .waitCrc else .waitData } :=
  (exec_decFeed_waitData h).trans (if_neg (Nat.not_le.mpr hcap))

theorem exec_decFeed_goodCrc (h : s.dstate = .waitCrc) (hb : b = s.dcrc) :
    exec (.decFeed b) s = State.complete { s with dstate := .ready } :=
  (exec_decFeed_waitCrc h).trans (if_pos hb)

theorem exec_decFeed_badCrc (h : s.dstate = .waitCrc) (hb : b ≠ s.dcrc) :
    exec (.decFeed b) s = framingError .checksumMismatch .checksumMismatch s :=
  (exec_decFeed_waitCrc h).trans (if_neg hb)

theorem exec_decTake_ready (h : s.dstate = .ready) (hexp : s.dexp.toNat ≤ 32) :
    exec .decTake s =
      State.complete (State.resetDecoder { s with
        rxb := s.rxb.writeList 0 (s.db.slice s.dexp.toNat), rxlen := s.dexp }) :=
  (if_pos h).trans (if_neg (Nat.not_lt.mpr hexp))

theorem exec_decTake_notReady (h : s.dstate ≠ .ready) : exec .decTake s = s.raise .notReady :=
  if_neg h

theorem exec_rxApp_full (h : s.rxlen.toNat = 255) : exec (.rxApp b) s = s.raise .bufferFull :=
  if_pos h

theorem exec_rxApp_room (h : s.rxlen.toNat ≠ 255) :
    exec (.rxApp b) s = State.complete { s with rxb := s.rxb.write s.rxlen.toNat b, rxlen := s.rxlen + 1 } :=
  if_neg h

theorem exec_rxRd_outside {i : Byte} (h : s.rxlen.toNat ≤ i.toNat) : exec (.rxRd i) s = s.raise .badOperand :=
  if_pos h

theorem exec_rxRd_inside {i : Byte} (h : i.toNat < s.rxlen.toNat) :
    exec (.rxRd i) s = s.answer (.byte (s.rxb.read i.toNat)) :=
  if_neg (Nat.not_le.mpr h)

end

/-! ### The transition table -/

/-- Settles O17: a row for each branch of DEC.FEED. The data row turns on DCNT + 1 not wrapping below DB's capacity. -/
theorem decFeedFollowsTransitionTable : Obligations.DecFeedFollowsTransitionTable := by
  intro s b
  refine ⟨exec_decFeed_start, exec_decFeed_badHeader, fun hd hne hle => ?length, fun hd hzero => ?empty,
    exec_decFeed_tooLong, fun hd hcap => ?data, exec_decFeed_goodCrc, exec_decFeed_badCrc, exec_decFeed_ready⟩
  case length => rw [exec_decFeed_length hd hle, if_neg hne]; rfl
  case empty =>
    subst hzero
    exact exec_decFeed_length hd (Nat.zero_le 32)
  case data =>
    have hcount : (s.dcnt + 1).toNat = s.dcnt.toNat + 1 := toNat_add_one (by omega)
    have hlast : s.dcnt + 1 = s.dexp ↔ s.dcnt.toNat + 1 = s.dexp.toNat := by rw [← BitVec.toNat_inj, hcount]
    exact ⟨_, exec_decFeed_data hd hcap, Memory.read_write_same _ _ _, fun a ha => Memory.read_write_ne _ _ ha, hcount,
      rfl, if_congr hlast rfl rfl, rfl⟩

/-- Settles O20: RXB takes the DEXP bytes of the slice of DB, so its entries from DEXP on stay. -/
theorem takeAndResetDecoder : Obligations.TakeAndResetDecoder := by
  intro s
  refine ⟨fun hd hexp => ⟨_, exec_decTake_ready hd hexp, fun a ha => ?payload, fun a ha => ?beyond, rfl⟩,
    exec_decTake_notReady, rfl⟩
  case payload => exact Memory.read_writeList_slice _ _ ha
  case beyond => exact Memory.read_writeList_outside _ _ _ _ (.inr (by simpa using ha))

/-- Settles O21: the two outcomes of RX.RD are the two sides of its range check. -/
theorem receiveClearAndRead : Obligations.ReceiveClearAndRead :=
  fun _ => ⟨rfl, fun _ => ⟨exec_rxRd_inside, exec_rxRd_outside⟩⟩

/-- Settles O22: a write to one entry of RXB leaves the others, and RXLEN below 255 does not wrap. -/
theorem receiveAppend : Obligations.ReceiveAppend :=
  fun _ _ => ⟨exec_rxApp_full, fun hroom => ⟨_, exec_rxApp_room hroom, Memory.read_write_same _ _ _,
    fun _ ha => Memory.read_write_ne _ _ ha, toNat_add_one hroom, rfl⟩⟩

/-! ### A part of the state that an operation leaves as it is -/

/-- If `o` answers a next state at all, the part `f` of it is as in `s`. -/
def Keeps {α : Type} (f : State → α) (s : State) (o : Host.Outcome State Fault Refusal) : Prop :=
  ∀ t, o = .next t → f t = f s

section
variable {α : Type} {f : State → α} {s u : State}

theorem keeps_next (h : f u = f s) : Keeps f s (.next u) := by
  intro t ht
  cases ht
  exact h

theorem keeps_fault (e : Fault) : Keeps f s (.fault e) := by
  intro t ht
  cases ht

theorem keeps_ite {c : Prop} [Decidable c] {a b : Host.Outcome State Fault Refusal} (ha : Keeps f s a)
    (hb : Keeps f s b) : Keeps f s (if c then a else b) := by
  split
  · exact ha
  · exact hb

/-- A run keeps what each of its steps keeps. -/
theorem keeps_finishRun (hstep : ∀ r u, Keeps f u (microStep r u)) (n : Nat) (s : State) :
    Keeps f s (finishRun n s) := by
  induction n generalizing s with
  | zero => exact keeps_next rfl
  | succ n ih =>
    cases hr : s.run with
    | none =>
      rw [finishRun_none hr]
      exact keeps_next rfl
    | some r =>
      intro t ht
      rw [finishRun_some hr] at ht
      split at ht
      case h_2 | h_3 => cases ht
      case h_1 u hu => exact (ih u t ht).trans (hstep r s u hu)

end

/-! ### The decoder's registers and DB, which only four instructions write -/

/-- The decoder's registers and its payload buffer (10_state.md R25 to R30). -/
def State.decoderUnit (s : State) : DecState × DecErr × Byte × Byte × Byte × Memory :=
  (s.dstate, s.derr, s.dexp, s.dcnt, s.dcrc, s.db)

theorem State.decoderUnit_eq_iff (s t : State) :
    t.decoderUnit = s.decoderUnit ↔
      t.dstate = s.dstate ∧ t.derr = s.derr ∧ t.dexp = s.dexp ∧ t.dcnt = s.dcnt ∧ t.dcrc = s.dcrc ∧ t.db = s.db := by
  simp only [State.decoderUnit, Prod.mk.injEq]

theorem fieldStep_keeps_decoder (p : PackStep) (u : UnpackStep) (s : State) :
    Keeps State.decoderUnit s (fieldStep p u s) := by
  intro t ht
  obtain ⟨r, _, ⟨_, v, _, ⟨r', _, rfl⟩ | ⟨e, _, he⟩⟩ | ⟨_, ⟨r', _, rfl⟩ | ⟨e, _, he⟩⟩⟩ := fieldStep_next ht
  · rfl
  · rw [abandonPack_eq_next.mp he]; rfl
  · rfl
  · rw [abandonUnpack_eq_next.mp he]; rfl

theorem commitRun_keeps_decoder (r : Run) (s : State) : Keeps State.decoderUnit s (commitRun r s) := by
  unfold commitRun
  split
  · exact keeps_ite (keeps_fault _) (keeps_next rfl)
  · exact keeps_next rfl

theorem microStep_keeps_decoder (r : Run) (s : State) : Keeps State.decoderUnit s (microStep r s) := by
  intro t ht
  rcases microStep_next ht with ⟨_, _, ⟨i, hk, hi⟩ | ⟨_, hhalt⟩⟩ | ⟨_, hcommit⟩
  · obtain ⟨p, u, hexec⟩ := exec_eq_fieldStep hk
    exact fieldStep_keeps_decoder p u s t (hexec s ▸ hi)
  · rw [haltEngine_eq_next.mp hhalt]; rfl
  · exact commitRun_keeps_decoder r s t hcommit

theorem runAll_keeps_decoder (mode : RunMode) (s : State) : Keeps State.decoderUnit s (runAll mode s) :=
  keeps_finishRun microStep_keeps_decoder _ (s.beginRun mode)

theorem feGate_keeps_decoder {s : State} {body : Host.Outcome State Fault Refusal}
    (h : Keeps State.decoderUnit s body) : Keeps State.decoderUnit s (feGate s body) :=
  keeps_ite (keeps_next rfl) h

theorem validated_keeps_decoder {s : State} {body : Host.Outcome State Fault Refusal}
    (h : Keeps State.decoderUnit s body) : Keeps State.decoderUnit s (validated s body) := by
  refine feGate_keeps_decoder (keeps_ite (keeps_fault _) ?_)
  split
  · exact keeps_next rfl
  · exact h

theorem execRegRd_keeps_decoder (r : Byte) (s : State) : Keeps State.decoderUnit s (execRegRd r s) := by
  unfold execRegRd
  split
  · exact keeps_next rfl
  · exact keeps_next rfl

theorem execVqPop_keeps_decoder (s : State) : Keeps State.decoderUnit s (execVqPop s) := by
  refine feGate_keeps_decoder ?_
  split
  · exact keeps_next rfl
  · exact keeps_next rfl

theorem exec_keeps_decoder {i : Instr} (hi : i.drivesDecoder = false) (s : State) :
    Keeps State.decoderUnit s (exec i s) := by
  cases i with
  | reset | decRst | decFeed | decTake => cases hi
  | nop | crcClr | crcUpd | crcRd | pbClr | rxClr | feRst => exact keeps_next rfl
  | regRd r => exact execRegRd_keeps_decoder r s
  | pbApp | pbRd | rxApp | rxRd => exact keeps_ite (keeps_next rfl) (keeps_next rfl)
  | encFrame => exact keeps_ite (keeps_next rfl) (keeps_ite (keeps_next rfl) (keeps_next rfl))
  | txPop => exact keeps_ite (keeps_next rfl) (keeps_ite (keeps_fault _) (keeps_next rfl))
  | sigClr | vqiClr => exact feGate_keeps_decoder (keeps_next rfl)
  | sigApp k =>
    exact feGate_keeps_decoder (keeps_ite (keeps_next rfl) (keeps_ite (keeps_fault _) (keeps_next rfl)))
  | vqPushw | vqPushb => exact feGate_keeps_decoder (keeps_ite (keeps_next rfl) (keeps_next rfl))
  | pack => exact validated_keeps_decoder (keeps_ite (runAll_keeps_decoder _ s) (keeps_next rfl))
  | unpack => exact validated_keeps_decoder (runAll_keeps_decoder _ s)
  | vqPop => exact execVqPop_keeps_decoder s
  | u8 | i16 | u16 | i32 | u32 | f32 | blob => exact fieldStep_keeps_decoder _ _ s
  | cstr => exact fieldStep_keeps_decoder packCstr unpackCstr s

/-! ### The ERROR state -/

/-- In ERROR the commands that drive the decoder are refused, except the two resets. -/
theorem exec_keeps_halted_decoder {s : State} (h : s.dstate = .error) {i : Instr} (hrst : i ≠ .decRst)
    (hreset : i ≠ .reset) : Keeps State.decoderUnit s (exec i s) := by
  by_cases hi : i.drivesDecoder = false
  · exact exec_keeps_decoder hi s
  · cases i with
    | decFeed b =>
      rw [exec_decFeed_error h]
      exact keeps_next rfl
    | decTake =>
      have hnot : s.dstate ≠ .ready := by rw [h]; decide
      rw [exec_decTake_notReady hnot]
      exact keeps_next rfl
    | decRst => exact absurd rfl hrst
    | reset => exact absurd rfl hreset
    | _ => exact absurd rfl hi

/-- Settles O18: only four instructions write the decoder at all, and in ERROR the two of them that are no reset are
refused. -/
theorem onlyResetLeavesDecoderError : Obligations.OnlyResetLeavesDecoderError := by
  intro s h
  refine ⟨fun b => exec_decFeed_error h, fun i t ht hrst hreset => ?_, ⟨_, rfl, rfl⟩, ⟨_, rfl, rfl⟩⟩
  have hkept : t.decoderUnit = s.decoderUnit := exec_keeps_halted_decoder h hrst hreset t ht
  rwa [State.decoderUnit_eq_iff, h] at hkept

/-! ### Sequences of fed bytes -/

theorem coreRun_succ_of_step {M : Host.Core} {s t : M.State} (h : M.step s = .next t) (n : Nat) :
    M.run (n + 1) s = M.run n t := by
  rw [Host.Core.run, h]

theorem runSteps_succ_of_step {s t : State} (h : step s = .next t) (n : Nat) : runSteps (n + 1) s = runSteps n t :=
  coreRun_succ_of_step (M := core) h n

/-- DEC.FEED at the front of the port: the step is the command's, on the port without its two bytes. -/
theorem step_decFeeds_cons {s : State} {b : Byte} {bs : List Byte} (hrun : s.run = none)
    (hinp : s.inp = commandBytes (decFeeds (b :: bs))) :
    step s = exec (.decFeed b) { s with inp := commandBytes (decFeeds bs) } := by
  have hd : decode s.inp = .command (.decFeed b) (commandBytes (decFeeds bs)) := by rw [hinp]; rfl
  exact step_command hrun hd

theorem runSteps_decFeeds_of_error {s : State} {bs : List Byte} (hrun : s.run = none) (h : s.dstate = .error)
    (hinp : s.inp = commandBytes (decFeeds bs)) :
    runSteps bs.length s =
      .next { s with inp := [], out := s.out ++ List.replicate bs.length (failed .decoderHalted) } := by
  induction bs generalizing s with
  | nil =>
    have hempty : s.inp = [] := hinp
    rw [List.length_nil, List.replicate_zero, List.append_nil, ← hempty]
    rfl
  | cons b bs ih =>
    have hstep : step s = .next (State.respond { s with inp := commandBytes (decFeeds bs) } .decoderHalted .none) :=
      (step_decFeeds_cons hrun hinp).trans (exec_decFeed_error h)
    calc runSteps (bs.length + 1) s
      _ = runSteps bs.length (State.respond { s with inp := commandBytes (decFeeds bs) } .decoderHalted .none) :=
        runSteps_succ_of_step hstep _
      _ = .next { s with
            inp := [],
            out := s.out ++ [failed .decoderHalted] ++ List.replicate bs.length (failed .decoderHalted) } :=
        ih hrun h rfl
      _ = .next { s with inp := [], out := s.out ++ List.replicate (bs.length + 1) (failed .decoderHalted) } := by
        rw [List.append_assoc, List.replicate_succ, List.singleton_append]

/-- Settles O19: in ERROR by induction on the bytes fed; a wrong header byte leads there in one step. -/
theorem decoderNeverResynchronises : Obligations.DecoderNeverResynchronises := by
  refine ⟨fun s bs => runSteps_decFeeds_of_error, fun s b bs hrun hd hb hinp => ?_⟩
  have hstep : step s = framingError .invalidHeader .invalidHeader { s with inp := commandBytes (decFeeds bs) } :=
    (step_decFeeds_cons hrun hinp).trans (exec_decFeed_badHeader hd hb)
  calc runSteps (bs.length + 1) s
    _ = runSteps bs.length (State.respond { s with
          dstate := .error, derr := .invalidHeader, inp := commandBytes (decFeeds bs) } .invalidHeader .none) :=
      runSteps_succ_of_step hstep _
    _ = .next { s with
          dstate := .error, derr := .invalidHeader, inp := [],
          out := s.out ++ [failed .invalidHeader] ++ List.replicate bs.length (failed .decoderHalted) } :=
      runSteps_decFeeds_of_error hrun rfl rfl
    _ = .next { s with
          dstate := .error, derr := .invalidHeader, inp := [],
          out := s.out ++ failed .invalidHeader :: List.replicate bs.length (failed .decoderHalted) } := by
      rw [List.append_assoc, List.singleton_append]

end Machine

end Sys2Proof

/-! The model's field kinds and validation are the reference's (43_field_engine.md R202, 44_field_kinds.md): byte order,
the steps of each kind, and the lowest failing index of a signature. -/

namespace Sys2Proof.Machine

open Sys2Proof.Reference

/-! ### Little-endian fields -/

theorem toNat_append_eq_add {m n : Nat} (hi : BitVec m) (lo : BitVec n) :
    (hi ++ lo).toNat = lo.toNat + 2 ^ n * hi.toNat := by
  rw [BitVec.toNat_append, ← Nat.shiftLeft_add_eq_or_of_lt lo.isLt, Nat.shiftLeft_eq]
  ring

theorem littleEndian_leHalf (b0 b1 : Byte) : littleEndian [b0, b1] = (leHalf b0 b1).toNat := by
  rw [leHalf, toNat_append_eq_add]
  simp [littleEndian]

theorem littleEndian_leWord (b0 b1 b2 b3 : Byte) : littleEndian [b0, b1, b2, b3] = (leWord b0 b1 b2 b3).toNat := by
  simp only [leWord, toNat_append_eq_add, littleEndian]
  omega

theorem zext8_eq_littleEndian (b : Byte) : zext8 b = BitVec.ofNat 32 (littleEndian [b]) := by
  apply BitVec.eq_of_toNat_eq
  simp [zext8, littleEndian]

theorem ofNat_littleEndian_single (b : Byte) : BitVec.ofNat 8 (littleEndian [b]) = b := by
  simp [littleEndian]

theorem zext16_leHalf (b0 b1 : Byte) : zext16 (leHalf b0 b1) = BitVec.ofNat 32 (littleEndian [b0, b1]) := by
  rw [littleEndian_leHalf]
  apply BitVec.eq_of_toNat_eq
  simp [zext16]

theorem sext16_leHalf (b0 b1 : Byte) :
    sext16 (leHalf b0 b1) = BitVec.ofInt 32
      (if littleEndian [b0, b1] < 2 ^ 15 then (littleEndian [b0, b1] : Int)
       else (littleEndian [b0, b1] : Int) - 2 ^ 16) := by
  rw [littleEndian_leHalf, sext16, BitVec.signExtend, BitVec.toInt_eq_toNat_cond]
  exact congrArg _ (if_congr (by omega) rfl rfl)

theorem leWord_eq_littleEndian (b0 b1 b2 b3 : Byte) :
    leWord b0 b1 b2 b3 = BitVec.ofNat 32 (littleEndian [b0, b1, b2, b3]) := by
  rw [littleEndian_leWord, BitVec.ofNat_toNat, BitVec.setWidth_eq]

theorem take_succ_drop {rx : List Byte} {cur : Nat} (n : Nat) (h : cur < rx.length) :
    (rx.drop cur).take (n + 1) = rx.getD cur 0 :: (rx.drop (cur + 1)).take n := by
  rw [List.drop_eq_getElem_cons h, List.take_succ_cons, List.getD_eq_getElem _ _ h]

theorem take_one_drop {rx : List Byte} {cur : Nat} (h : cur + 1 ≤ rx.length) :
    (rx.drop cur).take 1 = [rx.getD cur 0] := by
  rw [take_succ_drop 0 h, List.take_zero]

theorem take_two_drop {rx : List Byte} {cur : Nat} (h : cur + 2 ≤ rx.length) :
    (rx.drop cur).take 2 = [rx.getD cur 0, rx.getD (cur + 1) 0] := by
  rw [take_succ_drop 1 (by omega), take_one_drop (by omega)]

theorem take_four_drop {rx : List Byte} {cur : Nat} (h : cur + 4 ≤ rx.length) :
    (rx.drop cur).take 4 = [rx.getD cur 0, rx.getD (cur + 1) 0, rx.getD (cur + 2) 0, rx.getD (cur + 3) 0] := by
  rw [take_succ_drop 3 (by omega), take_succ_drop 2 (by omega), take_two_drop (by omega)]

/-! ### A field kind's steps are the reference's -/

section
variable {k : Byte}

theorem packU8_eq_packField (hk : k.toNat = 0) : packU8 = packField k := by
  funext v last
  cases v <;> simp [packU8, packField, hk, wordByte]

theorem packHalf_eq_packField (hk : k.toNat = 1 ∨ k.toNat = 2) : packWord leBytes2 = packField k := by
  funext v last
  rcases hk with hk | hk <;> cases v <;> simp [packWord, packField, hk, leBytes2, wordByte]

theorem packWord_eq_packField (hk : k.toNat = 3 ∨ k.toNat = 4 ∨ k.toNat = 5) : packWord leBytes4 = packField k := by
  funext v last
  rcases hk with hk | hk | hk <;> cases v <;> simp [packWord, packField, hk, leBytes4, wordByte]

theorem packCstr_eq_packField (hk : k.toNat = 6) : packCstr = packField k := by
  funext v last
  cases v <;> simp [packCstr, packField, hk]

theorem packBlob_eq_packField (hk : k.toNat = 7) : packBlob = packField k := by
  funext v last
  cases v <;> simp [packBlob, packField, hk]

theorem unpackU8_eq_unpackField (hk : k.toNat = 0) : unpackU8 = unpackField k := by
  funext rx cur last
  by_cases h : rx.length < cur + 1
  · simp [unpackU8, unpackField, hk, h]
  · simp [unpackU8, unpackField, hk, h, take_one_drop (Nat.not_lt.mp h), zext8_eq_littleEndian,
      ofNat_littleEndian_single]

theorem unpackI16_eq_unpackField (hk : k.toNat = 1) : unpackI16 = unpackField k := by
  funext rx cur last
  by_cases h : rx.length < cur + 2
  · simp [unpackI16, unpackHalf, unpackField, hk, h]
  · simp [unpackI16, unpackHalf, unpackField, hk, h, take_two_drop (Nat.not_lt.mp h), sext16_leHalf]

theorem unpackU16_eq_unpackField (hk : k.toNat = 2) : unpackU16 = unpackField k := by
  funext rx cur last
  by_cases h : rx.length < cur + 2
  · simp [unpackU16, unpackHalf, unpackField, hk, h]
  · simp [unpackU16, unpackHalf, unpackField, hk, h, take_two_drop (Nat.not_lt.mp h), zext16_leHalf]

theorem unpackWord_eq_unpackField (hk : k.toNat = 3 ∨ k.toNat = 4 ∨ k.toNat = 5) : unpackWord = unpackField k := by
  funext rx cur last
  by_cases h : rx.length < cur + 4
  · rcases hk with hk | hk | hk <;> simp [unpackWord, unpackField, hk, h]
  · rcases hk with hk | hk | hk <;>
      simp [unpackWord, unpackField, hk, h, take_four_drop (Nat.not_lt.mp h), leWord_eq_littleEndian]

/-- The bytes before the first terminator are as many as its index says; with no terminator they are all of them. -/
theorem unpackCstr_eq_unpackField (hk : k.toNat = 6) : unpackCstr = unpackField k := by
  funext rx cur last
  have hstr : (rx.drop cur).takeWhile (· != 0x00) = (rx.drop cur).take ((rx.drop cur).findIdx (· == 0x00)) := by
    rw [List.takeWhile_eq_take_findIdx_not]
    simp [bne]
  cases hfind : (rx.drop cur).findIdx? (· == 0x00) with
  | some j =>
    obtain ⟨hj, hidx⟩ := List.findIdx?_eq_some_iff_findIdx_eq.mp hfind
    have hlen : ((rx.drop cur).take j).length = j := List.length_take_of_le hj.le
    have hend : cur + j < rx.length := by
      rw [List.length_drop] at hj
      omega
    simp only [unpackCstr, unpackField, hk, hfind, hstr, hidx, hlen, if_pos hend]
  | none =>
    have hidx := List.findIdx?_eq_none_iff_findIdx_eq.mp hfind
    have hend : ¬ cur + (rx.drop cur).length < rx.length := by
      rw [List.length_drop]
      omega
    simp only [unpackCstr, unpackField, hk, hfind, hstr, hidx, List.take_length, if_neg hend]

theorem unpackBlob_eq_unpackField (hk : k.toNat = 7) : unpackBlob = unpackField k := by
  funext rx cur last
  simp [unpackBlob, unpackField, hk]

/-- A SIG entry executes the reference's pack step and unpack step of its code. -/
theorem exec_eq_fieldStep_of_code {i : Instr} (h : decodeKind k = some i) (s : State) :
    exec i s = fieldStep (packField k) (unpackField k) s := by
  unfold decodeKind at h
  split at h <;> cases h
  case h_1 hk => rw [← packU8_eq_packField hk, ← unpackU8_eq_unpackField hk]; rfl
  case h_2 hk => rw [← packHalf_eq_packField (.inl hk), ← unpackI16_eq_unpackField hk]; rfl
  case h_3 hk => rw [← packHalf_eq_packField (.inr hk), ← unpackU16_eq_unpackField hk]; rfl
  case h_4 hk => rw [← packWord_eq_packField (.inl hk), ← unpackWord_eq_unpackField (.inl hk)]; rfl
  case h_5 hk => rw [← packWord_eq_packField (.inr (.inl hk)), ← unpackWord_eq_unpackField (.inr (.inl hk))]; rfl
  case h_6 hk => rw [← packWord_eq_packField (.inr (.inr hk)), ← unpackWord_eq_unpackField (.inr (.inr hk))]; rfl
  case h_7 hk => rw [← packCstr_eq_packField hk, ← unpackCstr_eq_unpackField hk]; rfl
  case h_8 hk => rw [← packBlob_eq_packField hk, ← unpackBlob_eq_unpackField hk]; rfl

/-! ### How a field can fail, and where an unpack step leaves the cursor -/

theorem packField_error {v : Value} {last : Byte} {e : Status} (h : packField k v last = .error e) :
    e = .valueKindMismatch ∨ e = .blobLengthMismatch := by
  unfold packField at h
  split at h
  case h_8 =>
    split at h <;> cases h
    exact .inr rfl
  case h_9 => cases h; exact .inl rfl
  all_goals cases h

theorem unpackField_error {rx : List Byte} {cur : Nat} {last : Byte} {e : Status}
    (h : unpackField k rx cur last = .error e) : e = .shortBuffer := by
  unfold unpackField at h
  split at h
  case h_4 => split at h <;> cases h
  all_goals
    split at h <;> cases h
    rfl

/-- An unpack step that succeeds has found its bytes within the buffer. -/
theorem unpackField_cursor_le {rx : List Byte} {cur cur' : Nat} {last last' : Byte} {v : Value}
    (h : unpackField k rx cur last = .ok (v, cur', last')) : cur' ≤ rx.length := by
  unfold unpackField at h
  split at h
  case h_4 =>
    split at h <;> cases h
    case h_1 j hfind =>
      obtain ⟨hj, _⟩ := List.findIdx?_eq_some_iff_findIdx_eq.mp hfind
      rw [List.length_drop] at hj
      omega
    case h_2 => exact le_rfl
  all_goals
    split at h <;> cases h
    omega

end

/-! ### The signature and its validation -/

@[simp] theorem State.length_signature (s : State) : s.signature.length = s.siglen.toNat :=
  s.sig.length_slice s.siglen.toNat

theorem getElem?_signature_eq_some {s : State} {i : Nat} {k : Byte} (h : s.signature[i]? = some k) :
    i < s.siglen.toNat ∧ s.sig.read i = k := by
  obtain ⟨hlt, rfl⟩ := List.getElem?_eq_some_iff.mp h
  exact ⟨s.length_signature ▸ hlt, (Memory.getElem_slice _ _ _ _).symm⟩

theorem decodeKind_eq_none_iff {k : Byte} : decodeKind k = none ↔ 0x07 < k.toNat := by
  unfold decodeKind
  split
  case h_9 =>
    refine iff_of_true rfl ?_
    simp only [imp_false] at *
    omega
  all_goals exact iff_of_false nofun (by omega)

theorem decodeKind_eq_u8_iff {k : Byte} : decodeKind k = some .u8 ↔ k = 0x00 := by
  rw [← BitVec.toNat_inj]
  unfold decodeKind
  split
  case h_1 hk => exact iff_of_true rfl hk
  all_goals exact iff_of_false nofun (by bv_omega)

theorem decodeKind_eq_blob_iff {k : Byte} : decodeKind k = some .blob ↔ k = 0x07 := by
  rw [← BitVec.toNat_inj]
  unfold decodeKind
  split
  case h_8 hk => exact iff_of_true rfl hk
  all_goals exact iff_of_false nofun (by bv_omega)

/-- The SIG entry before index `i`, as validation carries it. -/
def State.entryBefore (s : State) : Nat → Option Byte
  | 0 => none
  | i + 1 => some (s.sig.read i)

theorem entryBefore_is_u8_iff (s : State) (i : Nat) :
    (s.entryBefore i).bind decodeKind = some .u8 ↔ ¬ (i = 0 ∨ s.sig.read (i - 1) ≠ 0x00) := by
  cases i with
  | zero => simp [State.entryBefore]
  | succ i => simp [State.entryBefore, decodeKind_eq_u8_iff]

/-- Validation finds wrong with an entry what the rule says is wrong with it. -/
theorem entryError_eq_entryFailure (s : State) (i : Nat) :
    entryError (s.entryBefore i) (s.sig.read i) = entryFailure s i := by
  unfold entryError entryFailure
  split
  case h_1 hnone => rw [if_pos (decodeKind_eq_none_iff.mp hnone)]
  case h_2 hblob =>
    have hk : s.sig.read i = 0x07 := decodeKind_eq_blob_iff.mp hblob
    have hknown : ¬ 0x07 < (s.sig.read i).toNat := by rw [hk]; decide
    rw [if_neg hknown]
    simp only [entryBefore_is_u8_iff, ite_not, hk, true_and]
  case h_3 instr hother hk =>
    have hknown : ¬ 0x07 < (s.sig.read i).toNat := fun h => nomatch hk.symm.trans (decodeKind_eq_none_iff.mpr h)
    have hnoBlob : s.sig.read i ≠ 0x07 := fun h =>
      hother (Option.some.inj (hk.symm.trans (decodeKind_eq_blob_iff.mpr h)))
    rw [if_neg hknown, if_neg fun h => hnoBlob h.1]

theorem validateFrom_eq_findSome? (s : State) (i n : Nat) :
    validateFrom i (s.entryBefore i) ((List.range' i n).map s.sig.read) =
      (List.range' i n).findSome? fun j => (entryFailure s j).map fun e => (j, e) := by
  induction n generalizing i with
  | zero => rfl
  | succ n ih =>
    rw [List.range'_succ, List.map_cons, List.findSome?_cons, validateFrom, entryError_eq_entryFailure]
    cases entryFailure s i with
    | some e => rfl
    | none => exact ih (i + 1)

theorem validate_signature (s : State) : validate s.signature = firstFailure s := by
  rw [firstFailure, List.range_eq_range', ← validateFrom_eq_findSome?, ← List.range_eq_range']
  rfl

theorem firstFailure_eq_none_iff {s : State} :
    firstFailure s = none ↔ ∀ i < s.siglen.toNat, entryFailure s i = none := by
  simp [firstFailure]

theorem firstFailure_of_lowest {s : State} {i : Nat} {e : Status} (hi : i < s.siglen.toNat)
    (he : entryFailure s i = some e) (hlow : ∀ j < i, entryFailure s j = none) : firstFailure s = some (i, e) := by
  obtain ⟨m, hm⟩ := Nat.exists_eq_add_of_lt hi
  have hsplit : List.range s.siglen.toNat = List.range i ++ i :: List.range' (i + 1) m := by
    rw [hm, ← List.range'_succ, List.range_eq_range', List.range_eq_range', Nat.add_assoc, ← List.range'_append_1,
      Nat.zero_add]
  refine List.findSome?_eq_some_iff.mpr ⟨_, i, _, hsplit, by rw [he]; rfl, fun j hj => ?_⟩
  rw [hlow j (List.mem_range.mp hj)]
  rfl

/-- Every entry of a signature that validation passes is a field kind. -/
theorem decodeKind_of_valid {s : State} (hv : firstFailure s = none) {i : Nat} (hi : i < s.siglen.toNat) :
    ∃ instr, decodeKind (s.sig.read i) = some instr := by
  refine Option.ne_none_iff_exists'.mp fun hnone => ?_
  have hentry : entryFailure s i = none := firstFailure_eq_none_iff.mp hv i hi
  rw [entryFailure, if_pos (decodeKind_eq_none_iff.mp hnone)] at hentry
  cases hentry

end Sys2Proof.Machine

/-! Settles O25, O26, O27, O28 and O29: the field engine's queues and signature, and the halted gate
(43_field_engine.md R190 to R200). -/

namespace Sys2Proof.Machine

open Sys2Proof.Reference

/-! ### What each command of the field engine answers, branch by branch -/

section
variable {s : State}

theorem exec_eq_feGate_of_gated {i : Instr} (h : i.isGated = true) : ∃ body, exec i s = feGate s body := by
  cases i with
  | sigClr | sigApp | vqPushw | vqPushb | vqiClr | pack | unpack | vqPop => exact ⟨_, rfl⟩
  | _ => cases h

theorem exec_gated_halted {i : Instr} (h : s.feState = .fatal) (hi : i.isGated = true) :
    exec i s = s.raise .feHalted := by
  obtain ⟨body, hbody⟩ := exec_eq_feGate_of_gated hi
  rw [hbody, feGate_fatal h]

theorem exec_sigClr_idle (h : s.feState = .idle) : exec .sigClr s = State.complete { s with siglen := 0 } :=
  feGate_idle h _

theorem exec_vqiClr_idle (h : s.feState = .idle) : exec .vqiClr s = State.complete { s with vqi := [] } :=
  feGate_idle h _

theorem exec_sigApp_full {k : Byte} (h : s.feState = .idle) (hlen : s.siglen.toNat = 32) :
    exec (.sigApp k) s = s.raise .sigFull :=
  (feGate_idle h _).trans (if_pos hlen)

theorem exec_sigApp_room {k : Byte} (h : s.feState = .idle) (hlen : s.siglen.toNat < 32) :
    exec (.sigApp k) s =
      State.complete { s with sig := s.sig.write s.siglen.toNat k, siglen := s.siglen + 1 } :=
  (feGate_idle h _).trans ((if_neg hlen.ne).trans (if_neg hlen.not_gt))

theorem pushValue_full (v : Value) (h : s.vqi.length = 32) : pushValue v s = s.raise .vqFull :=
  if_pos h

theorem pushValue_room (v : Value) (h : s.vqi.length ≠ 32) :
    pushValue v s = State.complete { s with vqi := s.vqi ++ [v] } :=
  if_neg h

theorem exec_vqPushw_idle {w : Word} (h : s.feState = .idle) : exec (.vqPushw w) s = pushValue (.word w) s :=
  feGate_idle h _

theorem exec_vqPushb_idle {bs : List Byte} (h : s.feState = .idle) : exec (.vqPushb bs) s = pushValue (.bytes bs) s :=
  feGate_idle h _

theorem exec_vqPop_empty (h : s.feState = .idle) (hq : s.vqo = []) : exec .vqPop s = s.raise .vqEmpty := by
  rw [exec, execVqPop, feGate_idle h, hq]

theorem exec_vqPop_head {v : Value} {vs : List Value} (h : s.feState = .idle) (hq : s.vqo = v :: vs) :
    exec .vqPop s = State.answer { s with vqo := vs } (.value v) := by
  rw [exec, execVqPop, feGate_idle h, hq]

end

/-- Settles O25: each command's equation behind the gate. -/
theorem fieldEngineClears : Obligations.FieldEngineClears :=
  fun _ => ⟨rfl, exec_sigClr_idle, fun h => exec_gated_halted h rfl, exec_vqiClr_idle, fun h => exec_gated_halted h rfl⟩

/-- Settles O26: a write to one entry of SIG leaves the others, and SIGLEN below 32 does not wrap in its 6 bits. -/
theorem signatureAppend : Obligations.SignatureAppend := by
  intro s k
  refine ⟨fun h => exec_gated_halted h rfl, exec_sigApp_full, fun h hlen =>
    ⟨_, exec_sigApp_room h hlen, Memory.read_write_same _ _ _, fun _ ha => Memory.read_write_ne _ _ ha, ?siglen, rfl⟩⟩
  show (s.siglen + 1).toNat = s.siglen.toNat + 1
  bv_omega

/-- Settles O27: behind the gate both commands append their value, unless VQI is full. -/
theorem valuePush : Obligations.ValuePush := by
  intro s w bs
  refine ⟨fun h => ⟨exec_gated_halted h rfl, exec_gated_halted h rfl⟩, fun h hlen => ?full, fun h hlen => ?room⟩
  case full => exact ⟨(exec_vqPushw_idle h).trans (pushValue_full _ hlen),
    (exec_vqPushb_idle h).trans (pushValue_full _ hlen)⟩
  case room => exact ⟨(exec_vqPushw_idle h).trans (pushValue_room _ hlen),
    (exec_vqPushb_idle h).trans (pushValue_room _ hlen)⟩

/-- Settles O28: behind the gate the command is decided by whether VQO has a head. -/
theorem valuePop : Obligations.ValuePop :=
  fun _ => ⟨fun h => exec_gated_halted h rfl, exec_vqPop_empty, fun _ _ => exec_vqPop_head⟩

/-! ### Who answers FeHalted -/

/-- From `s`, an operation that answers a next state at all leaves the responses as they are, or appends one whose
status is not FeHalted. -/
def NeverFeHalted (s : State) (o : Host.Outcome State Fault Refusal) : Prop :=
  ∀ t, o = .next t → t.out = s.out ∨ ∃ r, t.out = s.out ++ [r] ∧ r.status ≠ .feHalted

section
variable {s u : State}

theorem neverFeHalted_respond (hout : u.out = s.out) {e : Status} (he : e ≠ .feHalted) (r : Result) :
    NeverFeHalted s (.next (u.respond e r)) := by
  intro t ht
  cases ht
  exact .inr ⟨_, by rw [State.respond_out, hout], he⟩

theorem neverFeHalted_complete (hout : u.out = s.out) : NeverFeHalted s u.complete :=
  neverFeHalted_respond hout (by decide) _

theorem neverFeHalted_answer (hout : u.out = s.out) (r : Result) : NeverFeHalted s (u.answer r) :=
  neverFeHalted_respond hout (by decide) r

theorem neverFeHalted_raise (hout : u.out = s.out) {e : Status} (he : e ≠ .feHalted) : NeverFeHalted s (u.raise e) :=
  neverFeHalted_respond hout he _

theorem neverFeHalted_fault (f : Fault) : NeverFeHalted s (.fault f) := by
  intro t ht
  cases ht

theorem neverFeHalted_ite {c : Prop} [Decidable c] {a b : Host.Outcome State Fault Refusal} (ha : NeverFeHalted s a)
    (hb : NeverFeHalted s b) : NeverFeHalted s (if c then a else b) := by
  split
  · exact ha
  · exact hb

end

theorem execRegRd_neverFeHalted (r : Byte) (s : State) : NeverFeHalted s (execRegRd r s) := by
  unfold execRegRd
  split
  · exact neverFeHalted_answer rfl _
  · exact neverFeHalted_raise rfl (by decide)

theorem framingError_neverFeHalted (d : DecErr) {e : Status} (he : e ≠ .feHalted) (s : State) :
    NeverFeHalted s (framingError d e s) :=
  neverFeHalted_raise rfl he

theorem execDecFeed_neverFeHalted (b : Byte) (s : State) : NeverFeHalted s (execDecFeed b s) := by
  unfold execDecFeed
  split
  · exact neverFeHalted_ite (neverFeHalted_complete rfl) (framingError_neverFeHalted _ (by decide) s)
  · exact neverFeHalted_ite (framingError_neverFeHalted _ (by decide) s) (neverFeHalted_complete rfl)
  · exact neverFeHalted_ite (neverFeHalted_fault _) (neverFeHalted_complete rfl)
  · exact neverFeHalted_ite (neverFeHalted_complete rfl) (framingError_neverFeHalted _ (by decide) s)
  · exact neverFeHalted_raise rfl (by decide)
  · exact neverFeHalted_raise rfl (by decide)

theorem neverFeHalted_abandonPack {e : Status} (he : e ≠ .feHalted) (i : Nat) (s : State) :
    NeverFeHalted s (abandonPack e i s) :=
  neverFeHalted_raise rfl he

theorem neverFeHalted_abandonUnpack {e : Status} (he : e ≠ .feHalted) (i : Nat) (s : State) :
    NeverFeHalted s (abandonUnpack e i s) :=
  neverFeHalted_raise rfl he

theorem exists_decodeKind_of_isFieldKind {i : Instr} (hi : i.isFieldKind = true) : ∃ k, decodeKind k = some i := by
  cases i with
  | u8 => exact ⟨0x00, rfl⟩
  | i16 => exact ⟨0x01, rfl⟩
  | u16 => exact ⟨0x02, rfl⟩
  | i32 => exact ⟨0x03, rfl⟩
  | u32 => exact ⟨0x04, rfl⟩
  | f32 => exact ⟨0x05, rfl⟩
  | cstr => exact ⟨0x06, rfl⟩
  | blob => exact ⟨0x07, rfl⟩
  | _ => cases hi

theorem packNext_packField_error {plen : Nat} {k : Byte} {v : Value} {r : Run} {e : Status}
    (h : r.packNext plen (packField k) v = .error e) :
    e = .valueKindMismatch ∨ e = .blobLengthMismatch ∨ e = .bufferFull := by
  rcases Run.packNext_error h with hp | ⟨rfl, _⟩
  · exact (packField_error hp).imp_right .inl
  · exact .inr (.inr rfl)

/-- A field kind, even in a run made by hand, fails with a status of its own steps only. -/
theorem fieldKind_neverFeHalted {i : Instr} (hi : i.isFieldKind = true) (s : State) : NeverFeHalted s (exec i s) := by
  obtain ⟨k, hk⟩ := exists_decodeKind_of_isFieldKind hi
  intro t ht
  rw [exec_eq_fieldStep_of_code hk] at ht
  obtain ⟨r, _, ⟨_, v, _, ⟨r', _, rfl⟩ | ⟨e, hp, he⟩⟩ | ⟨_, ⟨r', _, rfl⟩ | ⟨e, hu, he⟩⟩⟩ := fieldStep_next ht
  · exact .inl rfl
  · have hne : e ≠ .feHalted := by rcases packNext_packField_error hp with rfl | rfl | rfl <;> decide
    exact neverFeHalted_abandonPack hne r.idx s t he
  · exact .inl rfl
  · obtain rfl := unpackField_error (Run.unpackNext_error hu)
    exact neverFeHalted_abandonUnpack (by decide) r.idx s t he

theorem exec_neverFeHalted {i : Instr} (hi : i.isGated = false) (s : State) : NeverFeHalted s (exec i s) := by
  cases i with
  | sigClr | sigApp | vqPushw | vqPushb | vqiClr | pack | unpack | vqPop => cases hi
  | u8 | i16 | u16 | i32 | u32 | f32 | cstr | blob => exact fieldKind_neverFeHalted rfl s
  | nop | reset | crcClr | crcUpd | pbClr | decRst | rxClr | feRst => exact neverFeHalted_complete rfl
  | crcRd => exact neverFeHalted_answer rfl _
  | regRd r => exact execRegRd_neverFeHalted r s
  | pbApp | rxApp => exact neverFeHalted_ite (neverFeHalted_raise rfl (by decide)) (neverFeHalted_complete rfl)
  | pbRd | rxRd => exact neverFeHalted_ite (neverFeHalted_raise rfl (by decide)) (neverFeHalted_answer rfl _)
  | encFrame =>
    exact neverFeHalted_ite (neverFeHalted_raise rfl (by decide))
      (neverFeHalted_ite (neverFeHalted_raise rfl (by decide)) (neverFeHalted_complete rfl))
  | txPop =>
    exact neverFeHalted_ite (neverFeHalted_raise rfl (by decide))
      (neverFeHalted_ite (neverFeHalted_fault _) (neverFeHalted_answer rfl _))
  | decFeed b => exact execDecFeed_neverFeHalted b s
  | decTake =>
    exact neverFeHalted_ite (neverFeHalted_ite (neverFeHalted_fault _) (neverFeHalted_complete rfl))
      (neverFeHalted_raise rfl (by decide))

/-- Settles O29: the gate stands before each gated command, and FeHalted is no status of any other instruction. -/
theorem haltedGate : Obligations.HaltedGate :=
  ⟨fun _ _ => exec_gated_halted, fun s t _ hi ht => exec_neverFeHalted hi s t ht⟩

end Sys2Proof.Machine

/-! Settles O30, O31, O32, O34 and O36: PACK and UNPACK against their pseudocode (43_field_engine.md R201 to R207). -/

namespace Sys2Proof.Machine

open Sys2Proof.Reference

/-! ### One step of a run over a valid signature -/

section
variable {s : State} {r : Run}

@[simp] theorem withRun_run : (withRun s r).run = some r := rfl

theorem finishRun_of_next {t : State} {n : Nat} (hrun : s.run = some r) (hstep : microStep r s = .next t) :
    finishRun (n + 1) s = finishRun n t := by
  rw [finishRun_some hrun, hstep]

/-- A step that leaves no run ends it, whatever number of steps is left. -/
theorem finishRun_of_end {t : State} {n : Nat} (hrun : s.run = some r) (hstep : microStep r s = .next t)
    (hend : t.run = none) : finishRun (n + 1) s = .next t := by
  rw [finishRun_of_next hrun hstep, finishRun_none hend]

theorem microStep_field (hv : firstFailure s = none) (hcap : s.siglen.toNat ≤ 32) (hidx : r.idx < s.siglen.toNat) :
    microStep r (withRun s r) =
      fieldStep (packField (s.sig.read r.idx)) (unpackField (s.sig.read r.idx)) (withRun s r) := by
  obtain ⟨i, hi⟩ := decodeKind_of_valid hv hidx
  have hbelow : ¬ Config.sigCap ≤ r.idx := Nat.not_le.mpr (hidx.trans_le hcap)
  calc microStep r (withRun s r)
    _ = execEntry (s.sig.read r.idx) r.idx (withRun s r) := (if_pos hidx).trans (if_neg hbelow)
    _ = exec i (withRun s r) := execEntry_eq_exec hi _ _
    _ = _ := exec_eq_fieldStep_of_code hi _

theorem microStep_commit (hidx : s.siglen.toNat ≤ r.idx) : microStep r (withRun s r) = commitRun r (withRun s r) :=
  if_neg (Nat.not_lt.mpr hidx)

/-- The first of the elements that remain from index `n` on is element `n`, and the others remain from `n + 1` on. -/
theorem drop_eq_cons {α : Type} {l rest : List α} {n : Nat} {a : α} (h : l.drop n = a :: rest) :
    l[n]? = some a ∧ l.drop (n + 1) = rest := by
  constructor
  · rw [← List.head?_drop, h, List.head?_cons]
  · rw [← List.tail_drop, h, List.tail_cons]

end

/-! ### The field loop of PACK -/

/-- The state that a PACK whose fields have packed to `out` commits (43_field_engine.md R205). -/
def packCommitted (s : State) (out : List Byte) (last : Byte) : State :=
  { s with pb := s.pb.writeList s.plen.toNat out, plen := BitVec.ofNat 8 (s.plen.toNat + out.length), vqi := [],
           lastU8 := last, feCur := BitVec.ofNat 8 out.length, feErr := .ok, feErrIdx := s.siglen, run := none,
           out := s.out ++ [okay] }

/-- The state in which a PACK ends, by the outcome of its field loop. -/
def packEnd (s : State) : Except (Status × Nat) (List Byte × Byte) → State
  | .error (e, i) => packFailed s e i
  | .ok (out, last) => packCommitted s out last

theorem toNat_ofNat_byte {n : Nat} (h : n ≤ 255) : (BitVec.ofNat 8 n).toNat = n := by
  rw [BitVec.toNat_ofNat, Nat.mod_eq_of_lt (Nat.lt_succ_of_le h)]

theorem packed_packCommitted {s : State} {out : List Byte} (last : Byte) (h : s.plen.toNat + out.length ≤ 255) :
    Packed s (packCommitted s out last) out last := by
  refine ⟨fun k hk => Memory.read_writeList_inside _ _ _ _ hk, fun a ha => Memory.read_writeList_outside _ _ _ _ ha,
    ?plen, ?feCur, rfl⟩
  case plen => exact toNat_ofNat_byte h
  case feCur => exact toNat_ofNat_byte (by omega)

section
variable {plen : Nat} {k : Byte} {v : Value} {fields : List (Byte × Value)} {r r' : Run}

theorem packLoop_cons_of_ok (h : r.packNext plen (packField k) v = .ok r') :
    packLoop plen ((k, v) :: fields) r.idx r.out r.last = packLoop plen fields r'.idx r'.out r'.last := by
  obtain ⟨bs, last', hp, hroom, rfl⟩ := Run.packNext_ok h
  have hfits : ¬ 255 < plen + r.out.length + bs.length := Nat.not_lt.mpr hroom
  simp only [packLoop, hp, if_neg hfits]

theorem packLoop_cons_of_error {e : Status} (h : r.packNext plen (packField k) v = .error e) :
    packLoop plen ((k, v) :: fields) r.idx r.out r.last = .error (e, r.idx) := by
  rcases Run.packNext_error h with hp | ⟨rfl, bs, last', hp, hfull⟩
  · simp only [packLoop, hp]
  · have hfull : 255 < plen + r.out.length + bs.length := hfull
    simp only [packLoop, hp, if_pos hfull]

end

/-- The bytes of a field loop that succeeds still fit PB. -/
theorem packLoop_room {plen : Nat} {fields : List (Byte × Value)} {i : Nat} {out out' : List Byte} {last last' : Byte}
    (h : packLoop plen fields i out last = .ok (out', last')) (hroom : plen + out.length ≤ 255) :
    plen + out'.length ≤ 255 := by
  induction fields generalizing i out last with
  | nil => cases h; exact hroom
  | cons f fields ih =>
    unfold packLoop at h
    split at h
    · cases h
    · split at h
      · cases h
      · exact ih h (by rw [List.length_append]; omega)

theorem packLoop_error {plen : Nat} {fields : List (Byte × Value)} {i j : Nat} {out : List Byte} {last : Byte}
    {e : Status} (h : packLoop plen fields i out last = .error (e, j)) :
    (e = .valueKindMismatch ∨ e = .blobLengthMismatch ∨ e = .bufferFull) ∧ j < i + fields.length := by
  induction fields generalizing i out last with
  | nil => cases h
  | cons f fields ih =>
    rw [List.length_cons]
    unfold packLoop at h
    split at h
    · next hp =>
      cases h
      exact ⟨(packField_error hp).imp_right .inl, by omega⟩
    · split at h
      · cases h
        exact ⟨.inr (.inr rfl), by omega⟩
      · obtain ⟨hstatus, hlt⟩ := ih h
        exact ⟨hstatus, by omega⟩

theorem fieldStep_pack_of_ok {s : State} {r r' : Run} {p : PackStep} {u : UnpackStep} {v : Value}
    (hmode : r.mode = .pack) (hval : s.vqi[r.idx]? = some v) (h : r.packNext s.plen.toNat p v = .ok r') :
    fieldStep p u (withRun s r) = .next (withRun s r') := by
  simp only [fieldStep, withRun, hmode, hval, h]

theorem fieldStep_pack_of_error {s : State} {r : Run} {p : PackStep} {u : UnpackStep} {v : Value} {e : Status}
    (hmode : r.mode = .pack) (hval : s.vqi[r.idx]? = some v) (h : r.packNext s.plen.toNat p v = .error e) :
    fieldStep p u (withRun s r) = .next (packFailed s e r.idx) := by
  simp only [fieldStep, withRun, hmode, hval, h]
  rfl

theorem commitRun_pack {s : State} {r : Run} (hmode : r.mode = .pack) (hroom : s.plen.toNat + r.out.length ≤ 255) :
    commitRun r (withRun s r) = .next (packCommitted s r.out r.last) := by
  rw [commitRun, hmode]
  exact commitPack_of_room hroom

/-- The microsteps of a PACK run over the fields that remain are the reference's loop over them. -/
theorem finishRun_pack {s : State} (hv : firstFailure s = none) (hcap : s.siglen.toNat ≤ 32)
    (hcount : s.vqi.length = s.siglen.toNat) {fields : List (Byte × Value)} {r : Run} (hmode : r.mode = .pack)
    (hfields : (s.signature.zip s.vqi).drop r.idx = fields) (hroom : s.plen.toNat + r.out.length ≤ 255) :
    finishRun (fields.length + 1) (withRun s r) =
      .next (packEnd s (packLoop s.plen.toNat fields r.idx r.out r.last)) := by
  induction fields generalizing r with
  | nil =>
    have hidx : s.siglen.toNat ≤ r.idx := by simpa [hcount] using List.drop_eq_nil_iff.mp hfields
    exact finishRun_of_end withRun_run ((microStep_commit hidx).trans (commitRun_pack hmode hroom)) rfl
  | cons f fields ih =>
    obtain ⟨k, v⟩ := f
    obtain ⟨hfield, hrest⟩ := drop_eq_cons hfields
    obtain ⟨hkind, hval⟩ := List.getElem?_zip_eq_some.mp hfield
    obtain ⟨hidx, rfl⟩ := getElem?_signature_eq_some hkind
    have hstep := microStep_field hv hcap hidx
    cases hnext : r.packNext s.plen.toNat (packField (s.sig.read r.idx)) v with
    | error e =>
      rw [packLoop_cons_of_error hnext]
      exact finishRun_of_end withRun_run (hstep.trans (fieldStep_pack_of_error hmode hval hnext)) rfl
    | ok r' =>
      rw [packLoop_cons_of_ok hnext, List.length_cons,
        finishRun_of_next withRun_run (hstep.trans (fieldStep_pack_of_ok hmode hval hnext))]
      obtain ⟨bs, last', _, hfits, rfl⟩ := Run.packNext_ok hnext
      refine ih hmode hrest ?_
      rw [List.length_append, ← Nat.add_assoc]
      exact hfits

/-! ### The field loop of UNPACK -/

/-- The state that an UNPACK whose fields have given `res` and moved the cursor to `cur` commits (43_field_engine.md
R206). -/
def unpackCommitted (s : State) (res : List Value) (cur : Nat) (last : Byte) : State :=
  { s with vqo := res, lastU8 := last, feCur := BitVec.ofNat 8 cur, feErr := .ok, feErrIdx := s.siglen, run := none,
           out := s.out ++ [okay] }

/-- The state in which an UNPACK ends, by the outcome of its field loop. -/
def unpackEnd (s : State) : Except (Status × Nat) (List Value × Nat × Byte) → State
  | .error (e, i) => unpackFailed s e i
  | .ok (res, cur, last) => unpackCommitted s res cur last

theorem unpacked_unpackCommitted (s : State) (res : List Value) {cur : Nat} (last : Byte) (h : cur ≤ 255) :
    Unpacked s (unpackCommitted s res cur last) res cur last :=
  ⟨toNat_ofNat_byte h, rfl⟩

section
variable {rx : List Byte} {k : Byte} {kinds : List Byte} {r r' : Run}

theorem unpackLoop_cons_of_ok (h : r.unpackNext rx (unpackField k) = .ok r') :
    unpackLoop rx (k :: kinds) r.idx r.cur r.last r.res = unpackLoop rx kinds r'.idx r'.cur r'.last r'.res := by
  obtain ⟨v, cur', last', hu, rfl⟩ := Run.unpackNext_ok h
  simp only [unpackLoop, hu]

theorem unpackLoop_cons_of_error {e : Status} (h : r.unpackNext rx (unpackField k) = .error e) :
    unpackLoop rx (k :: kinds) r.idx r.cur r.last r.res = .error (e, r.idx) := by
  simp only [unpackLoop, Run.unpackNext_error h]

end

/-- A field loop of UNPACK that succeeds ends with its cursor within the buffer. -/
theorem unpackLoop_cursor_le {rx kinds : List Byte} {i cur cur' : Nat} {last last' : Byte} {res res' : List Value}
    (h : unpackLoop rx kinds i cur last res = .ok (res', cur', last')) (hcur : cur ≤ rx.length) :
    cur' ≤ rx.length := by
  induction kinds generalizing i cur last res with
  | nil => cases h; exact hcur
  | cons k kinds ih =>
    unfold unpackLoop at h
    split at h
    · cases h
    · next hu => exact ih h (unpackField_cursor_le hu)

theorem unpackLoop_error {rx kinds : List Byte} {i j cur : Nat} {last : Byte} {res : List Value} {e : Status}
    (h : unpackLoop rx kinds i cur last res = .error (e, j)) : e = .shortBuffer ∧ j < i + kinds.length := by
  induction kinds generalizing i cur last res with
  | nil => cases h
  | cons k kinds ih =>
    rw [List.length_cons]
    unfold unpackLoop at h
    split at h
    · next hu =>
      cases h
      exact ⟨unpackField_error hu, by omega⟩
    · obtain ⟨hstatus, hlt⟩ := ih h
      exact ⟨hstatus, by omega⟩

theorem fieldStep_unpack_of_ok {s : State} {r r' : Run} {p : PackStep} {u : UnpackStep} (hmode : r.mode = .unpack)
    (h : r.unpackNext s.received u = .ok r') : fieldStep p u (withRun s r) = .next (withRun s r') := by
  have hnext : r.unpackNext (withRun s r).received u = .ok r' := h
  simp only [fieldStep, withRun_run, hmode, hnext]
  rfl

theorem fieldStep_unpack_of_error {s : State} {r : Run} {p : PackStep} {u : UnpackStep} {e : Status}
    (hmode : r.mode = .unpack) (h : r.unpackNext s.received u = .error e) :
    fieldStep p u (withRun s r) = .next (unpackFailed s e r.idx) := by
  have hnext : r.unpackNext (withRun s r).received u = .error e := h
  simp only [fieldStep, withRun_run, hmode, hnext]
  rfl

theorem commitRun_unpack {s : State} {r : Run} (hmode : r.mode = .unpack) :
    commitRun r (withRun s r) = .next (unpackCommitted s r.res r.cur r.last) := by
  rw [commitRun, hmode]
  rfl

/-- The microsteps of an UNPACK run over the fields that remain are the reference's loop over them. -/
theorem finishRun_unpack {s : State} (hv : firstFailure s = none) (hcap : s.siglen.toNat ≤ 32) {kinds : List Byte}
    {r : Run} (hmode : r.mode = .unpack) (hkinds : s.signature.drop r.idx = kinds) :
    finishRun (kinds.length + 1) (withRun s r) =
      .next (unpackEnd s (unpackLoop s.received kinds r.idx r.cur r.last r.res)) := by
  induction kinds generalizing r with
  | nil =>
    have hidx : s.siglen.toNat ≤ r.idx := by simpa using List.drop_eq_nil_iff.mp hkinds
    exact finishRun_of_end withRun_run ((microStep_commit hidx).trans (commitRun_unpack hmode)) rfl
  | cons k kinds ih =>
    obtain ⟨hkind, hrest⟩ := drop_eq_cons hkinds
    obtain ⟨hidx, rfl⟩ := getElem?_signature_eq_some hkind
    have hstep := microStep_field hv hcap hidx
    cases hnext : r.unpackNext s.received (unpackField (s.sig.read r.idx)) with
    | error e =>
      rw [unpackLoop_cons_of_error hnext]
      exact finishRun_of_end withRun_run (hstep.trans (fieldStep_unpack_of_error hmode hnext)) rfl
    | ok r' =>
      rw [unpackLoop_cons_of_ok hnext, List.length_cons,
        finishRun_of_next withRun_run (hstep.trans (fieldStep_unpack_of_ok hmode hnext))]
      obtain ⟨v, cur', last', _, rfl⟩ := Run.unpackNext_ok hnext
      exact ih hmode hrest

/-! ### What PACK and UNPACK answer, branch by branch -/

section
variable {s : State}

theorem validated_of_failure {i : Nat} {e : Status} (hidle : s.feState = .idle) (hcap : s.siglen.toNat ≤ 32)
    (hv : firstFailure s = some (i, e)) (body : Host.Outcome State Fault Refusal) :
    validated s body = .next (halted s e i) := by
  have hfits : ¬ Config.sigCap < s.siglen.toNat := Nat.not_lt.mpr hcap
  rw [validated, feGate_idle hidle, if_neg hfits, validate_signature, hv]
  rfl

theorem validated_of_valid (hidle : s.feState = .idle) (hcap : s.siglen.toNat ≤ 32) (hv : firstFailure s = none)
    (body : Host.Outcome State Fault Refusal) : validated s body = body := by
  have hfits : ¬ Config.sigCap < s.siglen.toNat := Nat.not_lt.mpr hcap
  rw [validated, feGate_idle hidle, if_neg hfits, validate_signature, hv]

theorem exec_pack_of_failure {i : Nat} {e : Status} (hidle : s.feState = .idle) (hcap : s.siglen.toNat ≤ 32)
    (hv : firstFailure s = some (i, e)) : exec .pack s = .next (halted s e i) :=
  validated_of_failure hidle hcap hv _

theorem exec_unpack_of_failure {i : Nat} {e : Status} (hidle : s.feState = .idle) (hcap : s.siglen.toNat ≤ 32)
    (hv : firstFailure s = some (i, e)) : exec .unpack s = .next (halted s e i) :=
  validated_of_failure hidle hcap hv _

theorem exec_pack_of_count (hidle : s.feState = .idle) (hcap : s.siglen.toNat ≤ 32) (hv : firstFailure s = none)
    (hcount : s.vqi.length ≠ s.siglen.toNat) :
    exec .pack s = .next (packFailed s .valueCountMismatch (min s.vqi.length s.siglen.toNat)) :=
  (validated_of_valid hidle hcap hv _).trans (if_neg hcount)

theorem exec_pack_of_fields (hidle : s.feState = .idle) (hcap : s.siglen.toNat ≤ 32) (hv : firstFailure s = none)
    (hcount : s.vqi.length = s.siglen.toNat) : exec .pack s = .next (packEnd s (packFields s)) := by
  have hlen : (s.signature.zip s.vqi).length = s.siglen.toNat := by simp [hcount]
  calc exec .pack s
    _ = finishRun (s.siglen.toNat + 1) (withRun s (Run.start .pack)) :=
      (validated_of_valid hidle hcap hv _).trans (if_pos hcount)
    _ = finishRun ((s.signature.zip s.vqi).length + 1) (withRun s (Run.start .pack)) := by rw [hlen]
    _ = .next (packEnd s (packFields s)) :=
      finishRun_pack hv hcap hcount (r := Run.start .pack) rfl rfl (Nat.le_of_lt_succ s.plen.isLt)

theorem exec_unpack_of_fields (hidle : s.feState = .idle) (hcap : s.siglen.toNat ≤ 32) (hv : firstFailure s = none) :
    exec .unpack s = .next (unpackEnd s (unpackFields s)) := by
  calc exec .unpack s
    _ = finishRun (s.siglen.toNat + 1) (withRun s (Run.start .unpack)) := validated_of_valid hidle hcap hv _
    _ = finishRun (s.signature.length + 1) (withRun s (Run.start .unpack)) := by rw [s.length_signature]
    _ = .next (unpackEnd s (unpackFields s)) := finishRun_unpack hv hcap (r := Run.start .unpack) rfl rfl

theorem packed_of_packFields {out : List Byte} {last : Byte} (h : packFields s = .ok (out, last)) :
    Packed s (packCommitted s out last) out last :=
  packed_packCommitted last (packLoop_room h (Nat.le_of_lt_succ s.plen.isLt))

theorem unpacked_of_unpackFields {res : List Value} {cur : Nat} {last : Byte}
    (h : unpackFields s = .ok (res, cur, last)) : Unpacked s (unpackCommitted s res cur last) res cur last := by
  have hcur : cur ≤ s.received.length := unpackLoop_cursor_le h (Nat.zero_le _)
  have hlen : s.received.length = s.rxlen.toNat := s.rxb.length_slice _
  exact unpacked_unpackCommitted s res last (by omega)

end

/-- Settles O30: validation finds the lowest failing index. -/
theorem validationHaltsAtLowestIndex : Obligations.ValidationHaltsAtLowestIndex := by
  intro s i e hidle hcap hi he hlow
  have hv : firstFailure s = some (i, e) := firstFailure_of_lowest hi he hlow
  exact ⟨exec_pack_of_failure hidle hcap hv, exec_unpack_of_failure hidle hcap hv⟩

/-- Settles O31: the count is checked right after the validation. -/
theorem packNeedsOneValuePerField : Obligations.PackNeedsOneValuePerField :=
  fun _ => exec_pack_of_count

theorem FeState.eq_idle_of_ne_fatal {f : FeState} (h : f ≠ .fatal) : f = .idle := by
  cases f with
  | idle => rfl
  | fatal => exact absurd rfl h

/-- Settles O32: one case for each end of the pseudocode. -/
theorem packFollowsPseudocode : Obligations.PackFollowsPseudocode := by
  intro s hcap
  by_cases hfatal : s.feState = .fatal
  · exact ⟨_, exec_gated_halted hfatal rfl, by rw [if_pos hfatal]; rfl⟩
  have hidle := FeState.eq_idle_of_ne_fatal hfatal
  simp only [if_neg hfatal]
  cases hv : firstFailure s with
  | some failure => exact ⟨_, exec_pack_of_failure hidle hcap hv, rfl⟩
  | none =>
    by_cases hcount : s.vqi.length = s.siglen.toNat
    · refine ⟨_, exec_pack_of_fields hidle hcap hv hcount, ?_⟩
      rw [if_neg (not_not.mpr hcount)]
      cases hfields : packFields s with
      | error failure => rfl
      | ok packed => exact packed_of_packFields hfields
    · exact ⟨_, exec_pack_of_count hidle hcap hv hcount, by rw [if_pos hcount]⟩

/-- Settles O34: one case for each end of the pseudocode. -/
theorem unpackFollowsPseudocode : Obligations.UnpackFollowsPseudocode := by
  intro s hcap
  by_cases hfatal : s.feState = .fatal
  · exact ⟨_, exec_gated_halted hfatal rfl, by rw [if_pos hfatal]; rfl⟩
  have hidle := FeState.eq_idle_of_ne_fatal hfatal
  simp only [if_neg hfatal]
  cases hv : firstFailure s with
  | some failure => exact ⟨_, exec_unpack_of_failure hidle hcap hv, rfl⟩
  | none =>
    refine ⟨_, exec_unpack_of_fields hidle hcap hv, ?_⟩
    cases hfields : unpackFields s with
    | error failure => rfl
    | ok unpacked => exact unpacked_of_unpackFields hfields

/-- Settles O36: the failures of the count and of the two field loops, each with the state it ends in. -/
theorem failedRunCommitsNothing : Obligations.FailedRunCommitsNothing := by
  intro s hidle hcap hv
  refine ⟨fun hcount => ⟨_, exec_pack_of_count hidle hcap hv hcount, rfl⟩, fun e i hcount hfields => ?pack,
    fun e i hfields => ?unpack⟩
  case pack =>
    obtain ⟨hstatus, hi⟩ := packLoop_error hfields
    have hend : exec .pack s = .next (packFailed s e i) := by
      rw [exec_pack_of_fields hidle hcap hv hcount, hfields]
      rfl
    exact ⟨hstatus, by simpa [hcount] using hi, hend⟩
  case unpack =>
    obtain ⟨hstatus, hi⟩ := unpackLoop_error hfields
    have hend : exec .unpack s = .next (unpackFailed s e i) := by
      rw [exec_unpack_of_fields hidle hcap hv, hfields]
      rfl
    exact ⟨hstatus, by simpa using hi, hend⟩

end Sys2Proof.Machine

/-! Settles O41, O42, O43, O44 and O45: one field of a run, kind by kind (44_field_kinds.md R220 to R235). -/

namespace Sys2Proof.Machine

open Sys2Proof.Reference

theorem exec_cstr (s : State) : exec .cstr s = fieldStep packCstr unpackCstr s := rfl

/-! ### One field of a run in progress, by the outcome of its kind's step -/

section
variable {s : State} {r : Run} {p : PackStep} {u : UnpackStep}

theorem withRun_eq_self (hrun : s.run = some r) : withRun s r = s := by
  rw [withRun, ← hrun]

/-- A pack step's bytes that fit are appended, and the run moves on. -/
theorem fieldStep_pack_moves {v : Value} {bs : List Byte} {last' : Byte} (hrun : s.run = some r)
    (hmode : r.mode = .pack) (hval : s.vqi[r.idx]? = some v) (hp : p v r.last = .ok (bs, last'))
    (hroom : s.plen.toNat + r.out.length + bs.length ≤ 255) :
    fieldStep p u s = .next (withRun s { r with idx := r.idx + 1, out := r.out ++ bs, last := last' }) := by
  have hfits : ¬ Config.pbCap < s.plen.toNat + r.out.length + bs.length := Nat.not_lt.mpr hroom
  have hnext : r.packNext s.plen.toNat p v = .ok { r with idx := r.idx + 1, out := r.out ++ bs, last := last' } := by
    simp only [Run.packNext, hp, if_neg hfits]
  simpa only [withRun_eq_self hrun] using fieldStep_pack_of_ok (u := u) hmode hval hnext

theorem fieldStep_pack_abandons {v : Value} {e : Status} (hrun : s.run = some r) (hmode : r.mode = .pack)
    (hval : s.vqi[r.idx]? = some v) (hp : p v r.last = .error e) :
    fieldStep p u s = .next (packFailed s e r.idx) := by
  have hnext : r.packNext s.plen.toNat p v = .error e := by simp only [Run.packNext, hp]
  simpa only [withRun_eq_self hrun] using fieldStep_pack_of_error (u := u) hmode hval hnext

/-- An unpack step's value is appended, and the run and its cursor move on. -/
theorem fieldStep_unpack_moves {v : Value} {cur' : Nat} {last' : Byte} (hrun : s.run = some r)
    (hmode : r.mode = .unpack) (hu : u s.received r.cur r.last = .ok (v, cur', last')) :
    fieldStep p u s =
      .next (withRun s { r with idx := r.idx + 1, cur := cur', last := last', res := r.res ++ [v] }) := by
  have hnext : r.unpackNext s.received u =
      .ok { r with idx := r.idx + 1, cur := cur', last := last', res := r.res ++ [v] } := by
    simp only [Run.unpackNext, hu]
  simpa only [withRun_eq_self hrun] using fieldStep_unpack_of_ok (p := p) hmode hnext

theorem fieldStep_unpack_abandons {e : Status} (hrun : s.run = some r) (hmode : r.mode = .unpack)
    (hu : u s.received r.cur r.last = .error e) : fieldStep p u s = .next (unpackFailed s e r.idx) := by
  have hnext : r.unpackNext s.received u = .error e := by simp only [Run.unpackNext, hu]
  simpa only [withRun_eq_self hrun] using fieldStep_unpack_of_error (p := p) hmode hnext

end

/-! ### What each unpack step answers, from the bytes at the cursor -/

@[simp] theorem State.length_received (s : State) : s.received.length = s.rxlen.toNat :=
  s.rxb.length_slice s.rxlen.toNat

section
variable {rx : List Byte} {cur : Nat}

theorem unpackU8_of_byte {b : Byte} (last : Byte) (h : rx[cur]? = some b) :
    unpackU8 rx cur last = .ok (.word (zext8 b), cur + 1, b) := by
  obtain ⟨hlt, rfl⟩ := List.getElem?_eq_some_iff.mp h
  have henough : ¬ rx.length < cur + 1 := Nat.not_lt.mpr hlt
  simp only [unpackU8, if_neg henough, List.getD_eq_getElem _ _ hlt]

theorem unpackHalf_of_bytes {b0 b1 : Byte} (extend : BitVec 16 → Word) (last : Byte) (h0 : rx[cur]? = some b0)
    (h1 : rx[cur + 1]? = some b1) :
    unpackHalf extend rx cur last = .ok (.word (extend (leHalf b0 b1)), cur + 2, last) := by
  obtain ⟨hlt, _⟩ := List.getElem?_eq_some_iff.mp h1
  have henough : ¬ rx.length < cur + 2 := Nat.not_lt.mpr hlt
  simp only [unpackHalf, if_neg henough, List.getD_eq_getElem?_getD, h0, h1, Option.getD_some]

theorem unpackWord_of_bytes {b0 b1 b2 b3 : Byte} (last : Byte) (h0 : rx[cur]? = some b0) (h1 : rx[cur + 1]? = some b1)
    (h2 : rx[cur + 2]? = some b2) (h3 : rx[cur + 3]? = some b3) :
    unpackWord rx cur last = .ok (.word (leWord b0 b1 b2 b3), cur + 4, last) := by
  obtain ⟨hlt, _⟩ := List.getElem?_eq_some_iff.mp h3
  have henough : ¬ rx.length < cur + 4 := Nat.not_lt.mpr hlt
  simp only [unpackWord, if_neg henough, List.getD_eq_getElem?_getD, h0, h1, h2, h3, Option.getD_some]

/-- The index in the rest of the buffer of its first terminator, from the terminator's index in the buffer. -/
theorem findIdx?_terminator_of_first {j : Nat} (hj : cur ≤ j) (hterm : rx[j]? = some 0x00)
    (hfirst : ∀ k, cur ≤ k → k < j → rx[k]? ≠ some 0x00) :
    (rx.drop cur).findIdx? (· == 0x00) = some (j - cur) := by
  obtain ⟨hlt, hbyte⟩ := List.getElem?_eq_some_iff.mp hterm
  refine List.findIdx?_eq_some_iff_getElem.mpr ⟨by rw [List.length_drop]; omega, ?found, fun k hk => ?before⟩
  case found => simpa [List.getElem_drop, Nat.add_sub_cancel' hj] using hbyte
  case before =>
    have hne := hfirst (cur + k) (Nat.le_add_right _ _) (by omega)
    simpa [List.getElem?_eq_getElem (show cur + k < rx.length by omega)] using hne

theorem findIdx?_terminator_of_none (h : ∀ k, cur ≤ k → rx[k]? ≠ some 0x00) :
    (rx.drop cur).findIdx? (· == 0x00) = none := by
  refine List.findIdx?_eq_none_iff.mpr fun b hb => beq_eq_false_iff_ne.mpr ?_
  rintro rfl
  obtain ⟨k, hk⟩ := List.mem_iff_getElem?.mp hb
  exact h (cur + k) (Nat.le_add_right _ _) (List.getElem?_drop ▸ hk)

/-- CSTR's unpack step, by where the first terminator from the cursor on is (44_field_kinds.md R233). -/
theorem unpackCstr_eq_of_findIdx? (rx : List Byte) (cur : Nat) (last : Byte) :
    unpackCstr rx cur last =
      match (rx.drop cur).findIdx? (· == 0x00) with
      | some j => .ok (.bytes ((rx.drop cur).take j), cur + j + 1, last)
      | none => .ok (.bytes (rx.drop cur), rx.length, last) := by
  rw [unpackCstr_eq_unpackField (k := 0x06) rfl]
  rfl

theorem unpackCstr_of_terminator {j : Nat} (last : Byte) (hj : cur ≤ j) (hterm : rx[j]? = some 0x00)
    (hfirst : ∀ k, cur ≤ k → k < j → rx[k]? ≠ some 0x00) :
    unpackCstr rx cur last = .ok (.bytes ((rx.drop cur).take (j - cur)), j + 1, last) := by
  rw [unpackCstr_eq_of_findIdx?, findIdx?_terminator_of_first hj hterm hfirst]
  simp only [Nat.add_sub_cancel' hj]

theorem unpackCstr_of_no_terminator (last : Byte) (h : ∀ k, cur ≤ k → rx[k]? ≠ some 0x00) :
    unpackCstr rx cur last = .ok (.bytes (rx.drop cur), rx.length, last) := by
  rw [unpackCstr_eq_of_findIdx?, findIdx?_terminator_of_none h]

end

/-! ### The statements -/

/-- Settles O41: each kind's pack step on a word, and on bytes. -/
theorem numericPackSteps : Obligations.NumericPackSteps := by
  intro s r hrun hmode
  refine ⟨fun w hword => ⟨fun hroom => ?u8, fun hroom i hi => ?half, fun hroom i hi => ?word⟩,
    fun bs hbytes i hi => ?mismatch⟩
  case u8 => exact fieldStep_pack_moves hrun hmode hword rfl hroom
  case half => rcases hi with rfl | rfl <;> exact fieldStep_pack_moves hrun hmode hword rfl hroom
  case word => rcases hi with rfl | rfl | rfl <;> exact fieldStep_pack_moves hrun hmode hword rfl hroom
  case mismatch =>
    rcases hi with rfl | rfl | rfl | rfl | rfl | rfl <;> exact fieldStep_pack_abandons hrun hmode hbytes rfl

/-- Settles O42: each kind's unpack step with enough bytes at the cursor, and with too few. -/
theorem numericUnpackSteps : Obligations.NumericUnpackSteps := by
  intro s r hrun hmode
  simp only [← s.length_received]
  refine ⟨fun b hb => ?u8, fun b0 b1 h0 h1 => ⟨?i16, ?u16⟩, fun b0 b1 b2 b3 h0 h1 h2 h3 i hi => ?word,
    fun hshort => ?u8Short, fun hshort i hi => ?halfShort, fun hshort i hi => ?wordShort⟩
  case u8 => exact fieldStep_unpack_moves hrun hmode (unpackU8_of_byte _ hb)
  case i16 => exact fieldStep_unpack_moves hrun hmode (unpackHalf_of_bytes sext16 _ h0 h1)
  case u16 => exact fieldStep_unpack_moves hrun hmode (unpackHalf_of_bytes zext16 _ h0 h1)
  case word =>
    have hu := unpackWord_of_bytes r.last h0 h1 h2 h3
    rcases hi with rfl | rfl | rfl <;> exact fieldStep_unpack_moves hrun hmode hu
  case u8Short => exact fieldStep_unpack_abandons hrun hmode (if_pos hshort)
  case halfShort => rcases hi with rfl | rfl <;> exact fieldStep_unpack_abandons hrun hmode (if_pos hshort)
  case wordShort => rcases hi with rfl | rfl | rfl <;> exact fieldStep_unpack_abandons hrun hmode (if_pos hshort)

/-- Settles O43: CSTR's bytes with their terminator, BLOB's bytes by their number, and both kinds' failures. -/
theorem stringPackSteps : Obligations.StringPackSteps := by
  intro s r hrun hmode
  refine ⟨fun bs hbytes => ⟨fun hroom => ?cstr, fun hlen hroom => ?blob, fun hlen => ?blobLength⟩,
    fun w hword i hi => ?mismatch⟩
  case cstr =>
    have hfits : s.plen.toNat + r.out.length + (bs ++ [0x00]).length ≤ 255 := by
      rw [List.length_append, List.length_singleton, ← Nat.add_assoc]
      exact hroom
    rw [exec_cstr, List.append_assoc]
    exact fieldStep_pack_moves hrun hmode hbytes rfl hfits
  case blob => exact fieldStep_pack_moves hrun hmode hbytes (if_neg (not_not.mpr hlen)) hroom
  case blobLength => exact fieldStep_pack_abandons hrun hmode hbytes (if_pos hlen)
  case mismatch =>
    rcases hi with rfl | rfl
    · rw [exec_cstr]
      exact fieldStep_pack_abandons hrun hmode hword rfl
    · exact fieldStep_pack_abandons hrun hmode hword rfl

/-- Settles O44: the first terminator at or after the cursor, or the rest of the buffer. -/
theorem cstrUnpackStep : Obligations.CstrUnpackStep := by
  intro s r hrun hmode
  rw [← s.length_received]
  constructor
  · intro j hj hterm hfirst
    exact fieldStep_unpack_moves hrun hmode (unpackCstr_of_terminator _ hj hterm hfirst)
  · intro hnone
    exact fieldStep_unpack_moves hrun hmode (unpackCstr_of_no_terminator _ hnone)

/-- Settles O45: `last` bytes within RXLEN, or fewer. -/
theorem blobUnpackStep : Obligations.BlobUnpackStep := by
  intro s r hrun hmode
  rw [← s.length_received]
  constructor
  · intro henough
    exact fieldStep_unpack_moves hrun hmode (if_neg (Nat.not_lt.mpr henough))
  · intro hshort
    exact fieldStep_unpack_abandons hrun hmode (if_pos hshort)

end Sys2Proof.Machine

/-! Settles O48: REG.RD and the register numbers (45_block_control.md R252, 10_state.md R50). -/

namespace Sys2Proof.Machine

open Sys2Proof.Reference

/-! ### The numbers of the state registers -/

theorem DecState.toNat_code (d : DecState) : d.code.toNat = decoderStateNumber d := by
  cases d <;> rfl

theorem DecErr.toNat_code (e : DecErr) : e.code.toNat = decoderErrorNumber e := by
  cases e <;> rfl

theorem FeState.toNat_code (f : FeState) : f.code.toNat = if f = .fatal then 1 else 0 := by
  cases f <;> rfl

theorem Status.toNat_code (e : Status) : e.code.toNat = statusNumber e := by
  cases e <;> rfl

/-! ### The register map -/

theorem length_registerList (s : State) : (registerList s).length = 0x13 := rfl

/-- The reference's numbers, each as the word by which the model returns that register. -/
theorem registerList_eq_words (s : State) :
    registerList s =
      [zext8 s.crc, zext8 s.plen, zext8 s.txlen, zext8 s.txpos, zext8 s.dstate.code, zext8 s.derr.code,
       zext8 s.dexp, zext8 s.dcnt, zext8 s.dcrc, zext8 s.rxlen, s.siglen.zeroExtend 32,
       BitVec.ofNat 32 s.vqi.length, BitVec.ofNat 32 s.vqo.length, zext8 s.feState.code, zext8 s.feErr.code,
       s.feErrIdx.zeroExtend 32, zext8 s.feCur, zext8 s.lastU8, s.statusWord] := by
  simp only [registerList, registerNumbers, ← DecState.toNat_code, ← DecErr.toNat_code, ← FeState.toNat_code,
    ← Status.toNat_code, List.map_cons, List.map_nil, List.cons_append, List.nil_append, BitVec.ofNat_toNat,
    BitVec.truncate_eq_setWidth, zext8]

/-- The model's register map is the list of registers, read at the register's number. -/
theorem State.register_eq_getElem? (s : State) (r : Byte) : s.register r = (registerList s)[r.toNat]? := by
  unfold State.register
  split
  case h_20 =>
    have hbeyond : (registerList s).length ≤ r.toNat := by
      rw [length_registerList]
      simp only [imp_false] at *
      omega
    exact (List.getElem?_eq_none hbeyond).symm
  -- Every other arm names one of the 19 registers, by its place in the list.
  all_goals
    next hnumber =>
      rw [hnumber, registerList_eq_words]
      rfl

/-! ### What REG.RD answers, branch by branch -/

section
variable {s : State} {r : Byte}

theorem exec_regRd_register {w : Word} (h : s.register r = some w) : exec (.regRd r) s = s.answer (.word w) := by
  simp only [exec, execRegRd, h]

theorem exec_regRd_noRegister (h : s.register r = none) : exec (.regRd r) s = s.raise .badOperand := by
  simp only [exec, execRegRd, h]

end

/-- Settles O48: a number within the list of registers reads its entry, and one beyond the list names no register. -/
theorem registerRead : Obligations.RegisterRead := by
  intro s r
  refine ⟨fun w hw => ?named, fun hr => ?unnamed, length_registerList s⟩
  case named => exact exec_regRd_register ((s.register_eq_getElem? r).trans hw)
  case unnamed =>
    have hbeyond : (registerList s).length ≤ r.toNat := hr
    exact exec_regRd_noRegister ((s.register_eq_getElem? r).trans (List.getElem?_eq_none hbeyond))

end Sys2Proof.Machine

/-! Settles O1, O2, O4, O6, O7 and O8: the command stream's decoder and encoder, and the field-kind codes
(30_encoding.md sections 1, 3 and 5). -/

namespace Sys2Proof.Machine

open Sys2Proof.Reference

/-! ### Decoding what was encoded -/

theorem eq_ofNat_of_toNat_eq {w n : Nat} {x : BitVec w} (h : x.toNat = n) : x = BitVec.ofNat w n := by
  rw [← h, BitVec.ofNat_toNat, BitVec.setWidth_eq]

theorem toNat_wordByte (w : Word) (k : Nat) : (wordByte w k).toNat = w.toNat / 2 ^ (8 * k) % 256 := by
  rw [wordByte, BitVec.extractLsb'_toNat, Nat.shiftRight_eq_div_pow]

theorem leWord_wordBytes (w : Word) : leWord (wordByte w 0) (wordByte w 1) (wordByte w 2) (wordByte w 3) = w := by
  apply BitVec.eq_of_toNat_eq
  simp only [leWord, toNat_append_eq_add, toNat_wordByte]
  omega

theorem isCommand_vqPushb_iff {bs : List Byte} : (Instr.vqPushb bs).isCommand = true ↔ bs.length ≤ 255 := by
  rw [Instr.isCommand, Bool.and_eq_true]
  exact (and_iff_left rfl).trans decide_eq_true_iff

theorem operandString_of_length (f : List Byte → Instr) {bs : List Byte} (h : bs.length ≤ 255) (rest : List Byte) :
    operandString f (BitVec.ofNat 8 bs.length :: (bs ++ rest)) = .command (f bs) rest := by
  have hfits : bs.length ≤ (bs ++ rest).length := by
    rw [List.length_append]
    exact Nat.le_add_right _ _
  rw [operandString, toNat_ofNat_byte h, if_pos hfits, List.take_left, List.drop_left]

/-- Settles O1: each format's operand bytes read back as the operand. -/
theorem decodeReadsBackEveryCommand : Obligations.DecodeReadsBackEveryCommand := by
  intro i hi rest
  cases i with
  | u8 | i16 | u16 | i32 | u32 | f32 | cstr | blob => cases hi
  | vqPushw w => exact congrArg (fun v => Decoded.command (.vqPushw v) rest) (leWord_wordBytes w)
  | vqPushb bs =>
    exact operandString_of_length .vqPushb (isCommand_vqPushb_iff.mp hi) rest
  | _ => rfl

/-! ### What decodes to a command -/

theorem leBytes4_leWord (b0 b1 b2 b3 : Byte) : leBytes4 (leWord b0 b1 b2 b3) = [b0, b1, b2, b3] := by
  simp only [leBytes4, List.cons.injEq, and_true, ← BitVec.toNat_inj, toNat_wordByte, leWord, toNat_append_eq_add]
  omega

section
variable {bs rest : List Byte} {i : Instr}

theorem operandByte_eq_command {f : Byte → Instr} (h : operandByte f bs = .command i rest) :
    ∃ b, bs = b :: rest ∧ i = f b := by
  unfold operandByte at h
  split at h <;> cases h
  exact ⟨_, rfl, rfl⟩

theorem operandWord_eq_command {f : Word → Instr} (h : operandWord f bs = .command i rest) :
    ∃ w, bs = leBytes4 w ++ rest ∧ i = f w := by
  unfold operandWord at h
  split at h <;> cases h
  exact ⟨_, by rw [leBytes4_leWord]; rfl, rfl⟩

theorem operandString_eq_command {f : List Byte → Instr} (h : operandString f bs = .command i rest) :
    ∃ bytes, bytes.length ≤ 255 ∧ bs = BitVec.ofNat 8 bytes.length :: (bytes ++ rest) ∧ i = f bytes := by
  unfold operandString at h
  split at h
  · next n tail =>
    split at h <;> cases h
    next hfits =>
      have hlen : (tail.take n.toNat).length = n.toNat := List.length_take_of_le hfits
      refine ⟨tail.take n.toNat, by omega, ?_, rfl⟩
      rw [hlen, BitVec.ofNat_toNat, BitVec.setWidth_eq, List.take_append_drop]
  · cases h

/-- Settles O2: one case for each arm of the decoder, by the format of its operand. -/
theorem commandBytesAreUnique : Obligations.CommandBytesAreUnique := by
  intro bs i rest h
  cases bs with
  | nil => cases h
  | cons c tail =>
    simp only [decode] at h
    split at h
    -- Format B: one operand byte.
    case h_3 hc | h_5 hc | h_8 hc | h_9 hc | h_13 hc | h_16 hc | h_17 hc | h_20 hc =>
      obtain rfl := eq_ofNat_of_toNat_eq hc
      obtain ⟨b, rfl, rfl⟩ := operandByte_eq_command h
      exact ⟨rfl, rfl⟩
    -- Format W: a word.
    case h_21 hc =>
      obtain rfl := eq_ofNat_of_toNat_eq hc
      obtain ⟨w, rfl, rfl⟩ := operandWord_eq_command h
      exact ⟨rfl, rfl⟩
    -- Format S: a length and that many bytes.
    case h_22 hc =>
      obtain rfl := eq_ofNat_of_toNat_eq hc
      obtain ⟨bytes, hlen, rfl, rfl⟩ := operandString_eq_command h
      exact ⟨isCommand_vqPushb_iff.mpr hlen, rfl⟩
    case h_27 => cases h
    -- Format N: no operand.
    all_goals
      next hc =>
        obtain rfl := eq_ofNat_of_toNat_eq hc
        cases h
        exact ⟨rfl, rfl⟩

end

/-! ### Commands that have not all arrived -/

section
variable {bs rest : List Byte} {c : Byte}

theorem operandByte_ne_unassigned {f : Byte → Instr} : operandByte f bs ≠ .unassigned c rest := by
  unfold operandByte
  split <;> nofun

theorem operandWord_ne_unassigned {f : Word → Instr} : operandWord f bs ≠ .unassigned c rest := by
  unfold operandWord
  split <;> nofun

theorem operandString_ne_unassigned {f : List Byte → Instr} : operandString f bs ≠ .unassigned c rest := by
  unfold operandString
  split
  · split <;> nofun
  · nofun

theorem decode_eq_unassigned (h : decode bs = .unassigned c rest) : bs = c :: rest ∧ Unassigned c := by
  cases bs with
  | nil => cases h
  | cons c' tail =>
    simp only [decode] at h
    split at h
    case h_3 | h_5 | h_8 | h_9 | h_13 | h_16 | h_17 | h_20 => exact absurd h operandByte_ne_unassigned
    case h_21 => exact absurd h operandWord_ne_unassigned
    case h_22 => exact absurd h operandString_ne_unassigned
    case h_27 =>
      cases h
      refine ⟨rfl, ?_⟩
      unfold Unassigned
      simp only [imp_false] at *
      omega
    all_goals cases h

end

/-- No proper prefix of a command's bytes is a whole command or an unassigned code: what it decodes to would be read
at the front of the command's own bytes. -/
theorem decode_take_encode {i : Instr} (hi : i.isCommand = true) {n : Nat} (hn : n < (encode i).length) :
    decode ((encode i).take n) = .incomplete := by
  have hwhole : decode ((encode i).take n ++ (encode i).drop n) = .command i [] := by
    rw [List.take_append_drop, ← List.append_nil (encode i)]
    exact decodeReadsBackEveryCommand i hi []
  cases hd : decode ((encode i).take n) with
  | incomplete => rfl
  | unassigned c rest =>
    obtain ⟨hbytes, hc⟩ := decode_eq_unassigned hd
    rw [hbytes, List.cons_append, decode_unassigned hc] at hwhole
    cases hwhole
  | command j rest =>
    obtain ⟨hj, hbytes⟩ := commandBytesAreUnique _ _ _ hd
    rw [hbytes, List.append_assoc, decodeReadsBackEveryCommand j hj] at hwhole
    obtain ⟨_, hnil⟩ := Decoded.command.inj hwhole
    have hdrop : (encode i).drop n = [] := (List.append_eq_nil_iff.mp hnil).2
    exact absurd (List.drop_eq_nil_iff.mp hdrop) (Nat.not_le.mpr hn)

/-- Settles O6: an incomplete command decodes to nothing, and the step waits. -/
theorem incompleteCommandWaits : Obligations.IncompleteCommandWaits :=
  fun _ _ _ hrun hi hn hinp => step_incomplete hrun (hinp ▸ decode_take_encode hi hn)

/-- Settles O4: the command's bytes decode to it. -/
theorem stepExecutesDecodedCommand : Obligations.StepExecutesDecodedCommand :=
  fun _ i rest hrun hi hinp => step_command hrun (hinp ▸ decodeReadsBackEveryCommand i hi rest)

/-- Settles O7: the eight codes, and no code above them. -/
theorem fieldKindCodesReadBack : Obligations.FieldKindCodesReadBack := by
  refine ⟨fun i hi => ?kinds, fun k hk => decodeKind_eq_none_iff.mpr hk⟩
  cases i with
  | u8 | i16 | u16 | i32 | u32 | f32 | cstr | blob => exact ⟨_, rfl, by decide, rfl⟩
  | _ => cases hi

/-- Settles O8: every arm of the decoders by computation; only VQ.PUSHB's length byte needs its bound. -/
theorem writtenWordsDecode : Obligations.WrittenWordsDecode := by
  refine ⟨fun rest => ?none, fun b rest => ?byte, fun _ _ _ _ _ => rfl,
    fun bs rest hlen => operandString_of_length .vqPushb hlen rest, rfl, rfl, rfl, rfl, rfl, rfl, rfl, rfl⟩
  case none => exact ⟨rfl, rfl, rfl, rfl, rfl, rfl, rfl, rfl, rfl, rfl, rfl, rfl, rfl, rfl, rfl, rfl⟩
  case byte => exact ⟨rfl, rfl, rfl, rfl, rfl, rfl, rfl, rfl⟩

end Sys2Proof.Machine

/-! Settles O56 and O57: what each instruction writes, as one table, and the sticky halt (00_scope.md section 2,
60_exceptions.md section 3). -/

namespace Sys2Proof

/-- The registers, queues and buffers of the block, together where the same instructions write them. -/
inductive Part where
  | crc
  | frame
  | txpos
  | pb
  | plen
  | rxb
  | rxlen
  | decoder
  | db
  | sig
  | siglen
  | vqi
  | vqo
  | engine
  | runError

/-- The parts that belong to the field engine (10_state.md section 5). -/
def Part.ofFieldEngine : Part → Bool
  | .sig | .siglen | .vqi | .vqo | .engine | .runError => true
  | _ => false

/-- The parts of the state that each instruction may write (10_state.md sections 2 to 5). -/
def Instr.writes : Instr → Part → Bool
  | .reset, _ => true
  | .crcClr, .crc | .crcUpd _, .crc => true
  | .encFrame, .frame | .encFrame, .txpos | .txPop, .txpos => true
  | .pbApp _, .pb | .pack, .pb => true
  | .pbClr, .plen | .pbApp _, .plen | .pack, .plen => true
  | .decTake, .rxb | .rxApp _, .rxb => true
  | .decTake, .rxlen | .rxApp _, .rxlen | .rxClr, .rxlen => true
  | .decTake, .decoder | .decRst, .decoder | .decFeed _, .decoder | .decFeed _, .db => true
  | .sigApp _, .sig => true
  | .sigApp _, .siglen | .sigClr, .siglen | .feRst, .siglen => true
  | .vqPushw _, .vqi | .vqPushb _, .vqi | .vqiClr, .vqi | .pack, .vqi | .feRst, .vqi => true
  | .vqPop, .vqo | .unpack, .vqo | .feRst, .vqo => true
  | .pack, .engine | .unpack, .engine | .feRst, .engine => true
  | .pack, .runError | .unpack, .runError | .feRst, .runError => true
  | i, .vqo | i, .runError => i.isFieldKind
  | _, _ => false

namespace Machine

open Sys2Proof.Reference

/-- What stands in a part of the state. -/
def PartContents : Part → Type
  | .crc | .txpos | .plen | .rxlen => Byte
  | .pb | .rxb | .db | .sig => Memory
  | .frame => Memory × Byte
  | .decoder => DecState × DecErr × Byte × Byte × Byte
  | .siglen => BitVec 6
  | .vqi | .vqo => List Value
  | .engine => FeState × Byte × Byte
  | .runError => Status × BitVec 6

def State.part (s : State) : (p : Part) → PartContents p
  | .crc => s.crc
  | .frame => (s.txb, s.txlen)
  | .txpos => s.txpos
  | .pb => s.pb
  | .plen => s.plen
  | .rxb => s.rxb
  | .rxlen => s.rxlen
  | .decoder => (s.dstate, s.derr, s.dexp, s.dcnt, s.dcrc)
  | .db => s.db
  | .sig => s.sig
  | .siglen => s.siglen
  | .vqi => s.vqi
  | .vqo => s.vqo
  | .engine => (s.feState, s.feCur, s.lastU8)
  | .runError => (s.feErr, s.feErrIdx)

/-! ### How a PACK and an UNPACK can end -/

/-- The ends of a PACK (43_field_engine.md R205): the gate, the validation, the value count, a field, the commit. -/
inductive PackEnds (s : State) : State → Prop
  | refused (hfatal : s.feState = .fatal) : PackEnds s (s.respond .feHalted .none)
  | invalid {i : Nat} {e : Status} (hidle : s.feState = .idle) (hfail : firstFailure s = some (i, e)) :
      PackEnds s (halted s e i)
  | miscounted (hidle : s.feState = .idle) :
      PackEnds s (packFailed s .valueCountMismatch (min s.vqi.length s.siglen.toNat))
  | abandoned {i : Nat} {e : Status} (hidle : s.feState = .idle) (hcount : s.vqi.length = s.siglen.toNat)
      (hfields : packFields s = .error (e, i)) : PackEnds s (packFailed s e i)
  | committed {out : List Byte} {last : Byte} (hidle : s.feState = .idle) (hfields : packFields s = .ok (out, last)) :
      PackEnds s (packCommitted s out last)

/-- The ends of an UNPACK (43_field_engine.md R206): the gate, the validation, a field, the commit. -/
inductive UnpackEnds (s : State) : State → Prop
  | refused (hfatal : s.feState = .fatal) : UnpackEnds s (s.respond .feHalted .none)
  | invalid {i : Nat} {e : Status} (hidle : s.feState = .idle) (hfail : firstFailure s = some (i, e)) :
      UnpackEnds s (halted s e i)
  | abandoned {i : Nat} {e : Status} (hidle : s.feState = .idle) (hfields : unpackFields s = .error (e, i)) :
      UnpackEnds s (unpackFailed s e i)
  | committed {res : List Value} {cur : Nat} {last : Byte} (hidle : s.feState = .idle)
      (hfields : unpackFields s = .ok (res, cur, last)) : UnpackEnds s (unpackCommitted s res cur last)

section
variable {s : State}

theorem exists_packEnds (hcap : s.siglen.toNat ≤ 32) : ∃ t, exec .pack s = .next t ∧ PackEnds s t := by
  cases hfe : s.feState with
  | fatal => exact ⟨_, exec_gated_halted hfe rfl, .refused hfe⟩
  | idle =>
    cases hv : firstFailure s with
    | some failure => exact ⟨_, exec_pack_of_failure hfe hcap hv, .invalid hfe hv⟩
    | none =>
      by_cases hcount : s.vqi.length = s.siglen.toNat
      · refine ⟨_, exec_pack_of_fields hfe hcap hv hcount, ?_⟩
        cases hfields : packFields s with
        | error failure => exact .abandoned hfe hcount hfields
        | ok packed => exact .committed hfe hfields
      · exact ⟨_, exec_pack_of_count hfe hcap hv hcount, .miscounted hfe⟩

theorem exists_unpackEnds (hcap : s.siglen.toNat ≤ 32) : ∃ t, exec .unpack s = .next t ∧ UnpackEnds s t := by
  cases hfe : s.feState with
  | fatal => exact ⟨_, exec_gated_halted hfe rfl, .refused hfe⟩
  | idle =>
    cases hv : firstFailure s with
    | some failure => exact ⟨_, exec_unpack_of_failure hfe hcap hv, .invalid hfe hv⟩
    | none =>
      refine ⟨_, exec_unpack_of_fields hfe hcap hv, ?_⟩
      cases hfields : unpackFields s with
      | error failure => exact .abandoned hfe hfields
      | ok unpacked => exact .committed hfe hfields

theorem packEnds_of_next {t : State} (ht : exec .pack s = .next t) : PackEnds s t := by
  rcases validated_next ht with ⟨hfatal, rfl⟩ | ⟨_, hcap, _⟩
  · exact .refused hfatal
  · obtain ⟨u, hu, hends⟩ := exists_packEnds hcap
    cases hu.symm.trans ht
    exact hends

theorem unpackEnds_of_next {t : State} (ht : exec .unpack s = .next t) : UnpackEnds s t := by
  rcases validated_next ht with ⟨hfatal, rfl⟩ | ⟨_, hcap, _⟩
  · exact .refused hfatal
  · obtain ⟨u, hu, hends⟩ := exists_unpackEnds hcap
    cases hu.symm.trans ht
    exact hends

/-! ### Every instruction keeps the parts that it does not write -/

theorem keeps_part_respond (p : Part) (e : Status) (r : Result) : Keeps (State.part · p) s (.next (s.respond e r)) :=
  keeps_next (by cases p <;> rfl)

theorem keeps_part_feGate {p : Part} {body : Host.Outcome State Fault Refusal} (h : Keeps (State.part · p) s body) :
    Keeps (State.part · p) s (feGate s body) :=
  keeps_ite (keeps_part_respond p _ _) h

theorem execRegRd_keeps_part (r : Byte) (p : Part) : Keeps (State.part · p) s (execRegRd r s) := by
  unfold execRegRd
  split <;> exact keeps_part_respond p _ _

/-- A field kind moves the run on, or fails and ends it. -/
theorem fieldStep_keeps_part {p : Part} (hvqo : p ≠ .vqo) (herr : p ≠ .runError) (pk : PackStep) (u : UnpackStep) :
    Keeps (State.part · p) s (fieldStep pk u s) := by
  have habandon : ∀ e i, (packFailed s e i).part p = s.part p ∧ (unpackFailed s e i).part p = s.part p := fun e i => by
    cases p with
    | vqo => exact absurd rfl hvqo
    | runError => exact absurd rfl herr
    | _ => exact ⟨rfl, rfl⟩
  have hmove : ∀ r, (withRun s r).part p = s.part p := fun r => by cases p <;> rfl
  intro t ht
  obtain ⟨r, _, ⟨_, v, _, ⟨r', _, rfl⟩ | ⟨e, _, he⟩⟩ | ⟨_, ⟨r', _, rfl⟩ | ⟨e, _, he⟩⟩⟩ := fieldStep_next ht
  · exact hmove r'
  · rw [abandonPack_eq_next.mp he]; exact (habandon e r.idx).1
  · exact hmove r'
  · rw [abandonUnpack_eq_next.mp he]; exact (habandon e r.idx).2

theorem execDecFeed_keeps_part {p : Part} (hdec : p ≠ .decoder) (hdb : p ≠ .db) (b : Byte) :
    Keeps (State.part · p) s (execDecFeed b s) := by
  have hkeep : ∀ ds de ex cn cr m e, Keeps (State.part · p) s (.next (State.respond { s with
      dstate := ds, derr := de, dexp := ex, dcnt := cn, dcrc := cr, db := m } e .none)) :=
    fun ds de ex cn cr m e => keeps_next (by
      cases p with
      | decoder => exact absurd rfl hdec
      | db => exact absurd rfl hdb
      | _ => rfl)
  unfold execDecFeed
  split
  · exact keeps_ite (hkeep _ _ _ _ _ _ _) (hkeep _ _ _ _ _ _ _)
  · exact keeps_ite (hkeep _ _ _ _ _ _ _) (hkeep _ _ _ _ _ _ _)
  · exact keeps_ite (keeps_fault _) (hkeep _ _ _ _ _ _ _)
  · exact keeps_ite (hkeep _ _ _ _ _ _ _) (hkeep _ _ _ _ _ _ _)
  · exact keeps_part_respond p _ _
  · exact keeps_part_respond p _ _

theorem execVqPop_keeps_part {p : Part} (hvqo : p ≠ .vqo) : Keeps (State.part · p) s (execVqPop s) := by
  refine keeps_part_feGate ?_
  split
  · exact keeps_part_respond p _ _
  · exact keeps_next (by cases p with | vqo => exact absurd rfl hvqo | _ => rfl)

theorem exec_pack_keeps_part {p : Part} (h : Instr.pack.writes p = false) :
    Keeps (State.part · p) s (exec .pack s) := by
  intro t ht
  cases packEnds_of_next ht <;> cases p with
    | pb | plen | vqi | engine | runError => cases h
    | _ => rfl

theorem exec_unpack_keeps_part {p : Part} (h : Instr.unpack.writes p = false) :
    Keeps (State.part · p) s (exec .unpack s) := by
  intro t ht
  cases unpackEnds_of_next ht <;> cases p with
    | vqo | engine | runError => cases h
    | _ => rfl

theorem exec_keeps_part {i : Instr} {p : Part} (h : i.writes p = false) :
    Keeps (State.part · p) s (exec i s) := by
  have hsame : ∀ e r, Keeps (State.part · p) s (.next (s.respond e r)) := keeps_part_respond p
  cases i with
  | reset => cases h
  | nop | crcRd => exact hsame _ _
  | regRd r => exact execRegRd_keeps_part r p
  | pbRd | rxRd => exact keeps_ite (hsame _ _) (hsame _ _)
  | crcClr | crcUpd => exact keeps_next (by cases p with | crc => cases h | _ => rfl)
  | pbClr => exact keeps_next (by cases p with | plen => cases h | _ => rfl)
  | pbApp => exact keeps_ite (hsame _ _) (keeps_next (by cases p with | pb | plen => cases h | _ => rfl))
  | encFrame =>
    exact keeps_ite (hsame _ _) (keeps_ite (hsame _ _)
      (keeps_next (by cases p with | frame | txpos => cases h | _ => rfl)))
  | txPop =>
    exact keeps_ite (hsame _ _) (keeps_ite (keeps_fault _)
      (keeps_next (by cases p with | txpos => cases h | _ => rfl)))
  | decRst => exact keeps_next (by cases p with | decoder => cases h | _ => rfl)
  | decFeed b => exact execDecFeed_keeps_part (by rintro rfl; cases h) (by rintro rfl; cases h) b
  | decTake =>
    exact keeps_ite (keeps_ite (keeps_fault _)
      (keeps_next (by cases p with | rxb | rxlen | decoder => cases h | _ => rfl))) (hsame _ _)
  | rxClr => exact keeps_next (by cases p with | rxlen => cases h | _ => rfl)
  | rxApp => exact keeps_ite (hsame _ _) (keeps_next (by cases p with | rxb | rxlen => cases h | _ => rfl))
  | feRst => exact keeps_next (by cases p with | siglen | vqi | vqo | engine | runError => cases h | _ => rfl)
  | sigClr => exact keeps_part_feGate (keeps_next (by cases p with | siglen => cases h | _ => rfl))
  | sigApp =>
    exact keeps_part_feGate (keeps_ite (hsame _ _) (keeps_ite (keeps_fault _)
      (keeps_next (by cases p with | sig | siglen => cases h | _ => rfl))))
  | vqPushw | vqPushb =>
    exact keeps_part_feGate (keeps_ite (hsame _ _) (keeps_next (by cases p with | vqi => cases h | _ => rfl)))
  | vqiClr => exact keeps_part_feGate (keeps_next (by cases p with | vqi => cases h | _ => rfl))
  | pack => exact exec_pack_keeps_part h
  | unpack => exact exec_unpack_keeps_part h
  | vqPop => exact execVqPop_keeps_part (by rintro rfl; cases h)
  | u8 | i16 | u16 | i32 | u32 | f32 | blob =>
    exact fieldStep_keeps_part (by rintro rfl; cases h) (by rintro rfl; cases h) _ _
  | cstr => exact fieldStep_keeps_part (p := p) (by rintro rfl; cases h) (by rintro rfl; cases h) packCstr unpackCstr

end

/-- Settles O56: the statement reads off the table, part by part. -/
theorem commandsTouchOnlyTheirUnit : Obligations.CommandsTouchOnlyTheirUnit := by
  intro s t i ht hreset
  have hkeep : ∀ p, i.writes p = false → t.part p = s.part p := fun p hp => exec_keeps_part hp t ht
  refine ⟨fun _ _ => hkeep .crc ?crc, fun _ => ?encoder, fun _ _ => ⟨hkeep .pb ?pb, fun _ => hkeep .plen ?plen⟩,
    fun _ _ => ⟨hkeep .rxb ?rxb, fun _ => hkeep .rxlen ?rxlen⟩, fun _ _ _ => ?decoder, fun _ => hkeep .db ?db,
    fun _ => ⟨hkeep .sig ?sig, fun _ _ => hkeep .siglen ?siglen⟩, fun _ _ _ _ _ => hkeep .vqi ?vqi,
    fun _ _ _ _ => hkeep .vqo ?vqo, fun _ _ _ => ?engine⟩
  case encoder =>
    have hframe : i.writes .frame = false := by cases i with | reset | encFrame => contradiction | _ => rfl
    obtain ⟨htxb, htxlen⟩ := Prod.mk.inj (hkeep .frame hframe)
    exact ⟨htxb, htxlen, fun _ => hkeep .txpos (by cases i with | reset | encFrame | txPop => contradiction | _ => rfl)⟩
  case decoder =>
    have hdecoder : i.writes .decoder = false := by
      cases i with | reset | decTake | decRst | decFeed => simp_all | _ => rfl
    have hregs : (t.dstate, t.derr, t.dexp, t.dcnt, t.dcrc) = (s.dstate, s.derr, s.dexp, s.dcnt, s.dcrc) :=
      hkeep .decoder hdecoder
    simpa only [Prod.mk.injEq] using hregs
  case engine =>
    have hengine : i.writes .engine = false := by
      cases i with | reset | pack | unpack | feRst => contradiction | _ => rfl
    obtain ⟨hstate, hregs⟩ := Prod.mk.inj (hkeep .engine hengine)
    obtain ⟨hcur, hlast⟩ := Prod.mk.inj hregs
    refine ⟨hstate, hcur, hlast, fun hkind => Prod.mk.inj (hkeep .runError ?_)⟩
    cases i with | reset | pack | unpack | feRst => contradiction | _ => exact hkind
  -- The other clauses exclude, by name, each instruction that writes the part.
  case crc => cases i with | reset | crcClr | crcUpd => simp_all | _ => rfl
  case pb => cases i with | reset | pbApp | pack => simp_all | _ => rfl
  case plen => cases i with | reset | pbClr | pbApp | pack => simp_all | _ => rfl
  case rxb => cases i with | reset | decTake | rxApp => simp_all | _ => rfl
  case rxlen => cases i with | reset | decTake | rxApp | rxClr => simp_all | _ => rfl
  case db => cases i with | reset | decFeed => simp_all | _ => rfl
  case sig => cases i with | reset | sigApp => simp_all | _ => rfl
  case siglen => cases i with | reset | sigApp | sigClr | feRst => simp_all | _ => rfl
  case vqi => cases i with | reset | vqPushw | vqPushb | vqiClr | pack | feRst => simp_all | _ => rfl
  case vqo =>
    cases i with
    | reset | vqPop | unpack | feRst => contradiction
    | _ => assumption

/-! ### The parts of the field engine -/

/-- Besides the gated commands and the two resets, no command writes the field engine. -/
theorem writes_fieldEngine_eq_false {i : Instr} (hgated : i.isGated = false) (hkind : i.isFieldKind = false)
    (hrst : i ≠ .feRst) (hreset : i ≠ .reset) {p : Part} (hp : p.ofFieldEngine = true) : i.writes p = false := by
  cases i with
  | feRst | reset => contradiction
  | sigClr | sigApp | vqPushw | vqPushb | vqiClr | pack | unpack | vqPop => cases hgated
  | u8 | i16 | u16 | i32 | u32 | f32 | cstr | blob => cases hkind
  | _ => cases p with | sig | siglen | vqi | vqo | engine | runError => rfl | _ => cases hp

/-- Settles O57: a gated command is refused, and no other writes the engine. -/
theorem onlyResetClearsHalt : Obligations.OnlyResetClearsHalt := by
  intro s t i hfatal hkind ht hrst hreset
  have hkeep : ∀ p, p.ofFieldEngine = true → t.part p = s.part p := fun p hp => by
    cases hgated : i.isGated with
    | true => exact keeps_part_respond p .feHalted .none t ((exec_gated_halted hfatal hgated).symm.trans ht)
    | false => exact exec_keeps_part (writes_fieldEngine_eq_false hgated hkind hrst hreset hp) t ht
  obtain ⟨hstate, hregs⟩ := Prod.mk.inj (hkeep .engine rfl)
  obtain ⟨hcur, hlast⟩ := Prod.mk.inj hregs
  obtain ⟨herr, hidx⟩ := Prod.mk.inj (hkeep .runError rfl)
  exact ⟨hstate.trans hfatal, herr, hidx, hkeep .sig rfl, hkeep .siglen rfl, hkeep .vqi rfl, hkeep .vqo rfl, hlast,
    hcur⟩

end Machine

end Sys2Proof

/-! Settles O54: every step keeps the buffers in canonical form (20_memory.md section 1). -/

namespace Sys2Proof.Machine

open Sys2Proof.Reference

/-! ### How a DEC.FEED can end -/

/-- The ends of a DEC.FEED, the transition table of 42_frame_decoder.md R160 to R166: a byte accepted in one of the four
waiting states, a framing error, or a byte refused in READY and ERROR. -/
inductive FeedEnds (b : Byte) (s : State) : State → Prop
  | started (hd : s.dstate = .waitHeader) :
      FeedEnds b s (State.respond { s with dstate := .waitLength } .ok .none)
  | sized (hd : s.dstate = .waitLength) (hb : b.toNat ≤ 32) :
      FeedEnds b s (State.respond { s with
        dexp := b, dcnt := 0, dcrc := 0x00, dstate := if b = 0 then .waitCrc else .waitData } .ok .none)
  | stored (hd : s.dstate = .waitData) (hcap : s.dcnt.toNat < 32) :
      FeedEnds b s (State.respond { s with
        db := s.db.write s.dcnt.toNat b, dcnt := s.dcnt + 1, dcrc := crcUpdate s.dcrc b,
        dstate := if s.dcnt + 1 = s.dexp then .waitCrc else .waitData } .ok .none)
  | checked (hd : s.dstate = .waitCrc) : FeedEnds b s (State.respond { s with dstate := .ready } .ok .none)
  | badHeader (hd : s.dstate = .waitHeader) :
      FeedEnds b s (State.respond { s with dstate := .error, derr := .invalidHeader } .invalidHeader .none)
  | tooLong (hd : s.dstate = .waitLength) :
      FeedEnds b s (State.respond { s with dstate := .error, derr := .payloadTooLarge } .payloadTooLarge .none)
  | badCrc (hd : s.dstate = .waitCrc) :
      FeedEnds b s (State.respond { s with dstate := .error, derr := .checksumMismatch } .checksumMismatch .none)
  | full (hd : s.dstate = .ready) : FeedEnds b s (s.respond .decoderFull .none)
  | refused (hd : s.dstate = .error) : FeedEnds b s (s.respond .decoderHalted .none)

section
variable {s t : State} {i : Instr}

/-- A DEC.FEED answers one of its ends whenever DCNT is within DB. -/
theorem exists_feedEnds (b : Byte) (hcap : s.dstate = .waitData → s.dcnt.toNat < 32) :
    ∃ t, exec (.decFeed b) s = .next t ∧ FeedEnds b s t := by
  cases hd : s.dstate with
  | waitHeader =>
    by_cases hb : b = 0xD5
    · exact ⟨_, exec_decFeed_start hd hb, .started hd⟩
    · exact ⟨_, exec_decFeed_badHeader hd hb, .badHeader hd⟩
  | waitLength =>
    by_cases hb : b.toNat ≤ 32
    · exact ⟨_, exec_decFeed_length hd hb, .sized hd hb⟩
    · exact ⟨_, exec_decFeed_tooLong hd (Nat.lt_of_not_le hb), .tooLong hd⟩
  | waitData => exact ⟨_, exec_decFeed_data hd (hcap hd), .stored hd (hcap hd)⟩
  | waitCrc =>
    by_cases hb : b = s.dcrc
    · exact ⟨_, exec_decFeed_goodCrc hd hb, .checked hd⟩
    · exact ⟨_, exec_decFeed_badCrc hd hb, .badCrc hd⟩
  | ready => exact ⟨_, exec_decFeed_ready hd, .full hd⟩
  | error => exact ⟨_, exec_decFeed_error hd, .refused hd⟩

theorem exec_decFeed_noEntry {b : Byte} (hd : s.dstate = .waitData) (hcap : 32 ≤ s.dcnt.toNat) :
    exec (.decFeed b) s = .fault .noSuchEntry :=
  (exec_decFeed_waitData hd).trans (if_pos hcap)

theorem feedEnds_of_next {b : Byte} (ht : exec (.decFeed b) s = .next t) : FeedEnds b s t := by
  have hcap : s.dstate = .waitData → s.dcnt.toNat < 32 := fun hd => by
    by_contra hbeyond
    rw [exec_decFeed_noEntry hd (Nat.not_lt.mp hbeyond)] at ht
    cases ht
  obtain ⟨u, hu, hends⟩ := exists_feedEnds b hcap
  cases hu.symm.trans ht
  exact hends

/-! ### The canonical form of each buffer, which few instructions write -/

theorem exec_keeps_pb (h : i.writes .pb = false) (ht : exec i s = .next t) : t.pb = s.pb :=
  exec_keeps_part h t ht

theorem exec_keeps_txb (h : i.writes .frame = false) (ht : exec i s = .next t) : t.txb = s.txb :=
  (Prod.mk.inj (exec_keeps_part h t ht)).1

theorem exec_keeps_db (h : i.writes .db = false) (ht : exec i s = .next t) : t.db = s.db :=
  exec_keeps_part h t ht

theorem exec_keeps_rxb (h : i.writes .rxb = false) (ht : exec i s = .next t) : t.rxb = s.rxb :=
  exec_keeps_part h t ht

theorem exec_keeps_sig (h : i.writes .sig = false) (ht : exec i s = .next t) : t.sig = s.sig :=
  exec_keeps_part h t ht

theorem exec_keeps_pb_wf (h : s.pb.wf 255 = true) (ht : exec i s = .next t) : t.pb.wf 255 = true := by
  cases i with
  | reset => cases ht; rfl
  | pbApp b =>
    by_cases hfull : s.plen.toNat = 255
    · cases (exec_pbApp_full hfull).symm.trans ht
      exact h
    · cases (exec_pbApp_room hfull).symm.trans ht
      exact Memory.wf_write b h (by omega)
  | pack =>
    cases packEnds_of_next ht with
    | committed _ hfields => exact Memory.wf_writeList _ h (packLoop_room hfields (Nat.le_of_lt_succ s.plen.isLt))
    | _ => exact h
  | _ => exact exec_keeps_pb rfl ht ▸ h

theorem exec_keeps_txb_wf (h : s.txb.wf 35 = true) (ht : exec i s = .next t) : t.txb.wf 35 = true := by
  cases i with
  | reset => cases ht; rfl
  | encFrame =>
    by_cases hpending : s.txpos.toNat < s.txlen.toNat
    · cases (exec_encFrame_pending hpending).symm.trans ht
      exact h
    by_cases hlarge : 32 < s.plen.toNat
    · cases (exec_encFrame_tooLarge (Nat.not_lt.mp hpending) hlarge).symm.trans ht
      exact h
    · cases (exec_encFrame_fits (Nat.not_lt.mp hpending) (Nat.not_lt.mp hlarge)).symm.trans ht
      refine Memory.wf_writeList _ h ?_
      rw [length_frameOf, State.length_payload]
      omega
  | _ => exact exec_keeps_txb rfl ht ▸ h

theorem exec_keeps_db_wf (h : s.db.wf 32 = true) (ht : exec i s = .next t) : t.db.wf 32 = true := by
  cases i with
  | reset => cases ht; rfl
  | decFeed b =>
    cases feedEnds_of_next ht with
    | stored _ hcap => exact Memory.wf_write b h hcap
    | _ => exact h
  | _ => exact exec_keeps_db rfl ht ▸ h

theorem exec_keeps_rxb_wf (h : s.rxb.wf 255 = true) (ht : exec i s = .next t) : t.rxb.wf 255 = true := by
  cases i with
  | reset => cases ht; rfl
  | rxApp b =>
    by_cases hfull : s.rxlen.toNat = 255
    · cases (exec_rxApp_full hfull).symm.trans ht
      exact h
    · cases (exec_rxApp_room hfull).symm.trans ht
      exact Memory.wf_write b h (by omega)
  | decTake =>
    by_cases hready : s.dstate = .ready
    · by_cases hexp : s.dexp.toNat ≤ 32
      · cases (exec_decTake_ready hready hexp).symm.trans ht
        refine Memory.wf_writeList _ h ?_
        rw [Memory.length_slice]
        omega
      · cases ((if_pos hready).trans (if_pos (Nat.lt_of_not_le hexp))).symm.trans ht
    · cases (exec_decTake_notReady hready).symm.trans ht
      exact h
  | _ => exact exec_keeps_rxb rfl ht ▸ h

theorem exec_keeps_sig_wf (h : s.sig.wf 32 = true) (ht : exec i s = .next t) : t.sig.wf 32 = true := by
  cases i with
  | reset => cases ht; rfl
  | sigApp k =>
    rcases feGate_next ht with ⟨_, rfl⟩ | ⟨hidle, _⟩
    · exact h
    rcases Nat.lt_trichotomy s.siglen.toNat 32 with hroom | hfull | hbeyond
    · cases (exec_sigApp_room hidle hroom).symm.trans ht
      exact Memory.wf_write k h hroom
    · cases (exec_sigApp_full hidle hfull).symm.trans ht
      exact h
    · cases ((feGate_idle hidle _).trans ((if_neg hbeyond.ne').trans (if_pos hbeyond))).symm.trans ht
  | _ => exact exec_keeps_sig rfl ht ▸ h

/-! ### One step -/

theorem exec_keeps_memoriesOk (h : MemoriesOk s) (ht : exec i s = .next t) : MemoriesOk t := by
  obtain ⟨hpb, htxb, hdb, hrxb, hsig⟩ := h
  exact ⟨exec_keeps_pb_wf hpb ht, exec_keeps_txb_wf htxb ht, exec_keeps_db_wf hdb ht, exec_keeps_rxb_wf hrxb ht,
    exec_keeps_sig_wf hsig ht⟩

theorem commitRun_keeps_memoriesOk {r : Run} (h : MemoriesOk s) (ht : commitRun r s = .next t) : MemoriesOk t := by
  obtain ⟨hpb, hrest⟩ := h
  unfold commitRun at ht
  split at ht
  · obtain ⟨hroom, rfl⟩ := commitPack_next ht
    exact ⟨Memory.wf_writeList _ hpb hroom, hrest⟩
  · rw [commitUnpack_eq_next.mp ht]
    exact ⟨hpb, hrest⟩

theorem microStep_keeps_memoriesOk {r : Run} (h : MemoriesOk s) (ht : microStep r s = .next t) : MemoriesOk t := by
  rcases microStep_next ht with ⟨_, _, ⟨i, _, hi⟩ | ⟨_, hhalt⟩⟩ | ⟨_, hcommit⟩
  · exact exec_keeps_memoriesOk h hi
  · rw [haltEngine_eq_next.mp hhalt]
    exact h
  · exact commitRun_keeps_memoriesOk h hcommit

/-- Settles O54: a step is a field or the commit of a run, a command, an unassigned code, or a wait. -/
theorem stepKeepsBuffersCanonical : Obligations.StepKeepsBuffersCanonical := by
  intro s t h ht
  rcases step_next ht with ⟨r, _, hr⟩ | ⟨_, ⟨i, rest, _, hi⟩ | ⟨_, _, _, rfl⟩ | ⟨_, rfl⟩⟩
  · exact microStep_keeps_memoriesOk h hr
  · exact exec_keeps_memoriesOk (s := { s with inp := rest }) h hi
  · exact h
  · exact h

end

end Sys2Proof.Machine

/-! Settles O51, O52 and O53: the invariant (10_state.md sections 1 to 5). -/

namespace Sys2Proof.Machine

open Sys2Proof.Reference

/-- Settles O51: the empty buffers and queues, and the zero registers. -/
theorem resetMeetsInvariant : Obligations.ResetMeetsInvariant where
  memories := ⟨rfl, rfl, rfl, rfl, rfl⟩
  encoder := ⟨Nat.le_refl 0, .inl rfl⟩
  decoder := ⟨Nat.zero_le 32, rfl, iff_of_true rfl nofun, rfl, rfl⟩
  engine := ⟨Nat.zero_le 32, Nat.zero_le 32, Nat.zero_le 32, nofun, nofun, Nat.zero_le 32, iff_of_false nofun nofun⟩
  noBadRun := trivial

section
variable {s t : State} {i : Instr}

/-! ### The encoder -/

theorem exec_keeps_encoderOk (h : EncoderOk s) (ht : exec i s = .next t) : EncoderOk t := by
  cases i with
  | reset => cases ht; exact resetMeetsInvariant.encoder
  | encFrame =>
    by_cases hpending : s.txpos.toNat < s.txlen.toNat
    · cases (exec_encFrame_pending hpending).symm.trans ht
      exact h
    by_cases hlarge : 32 < s.plen.toNat
    · cases (exec_encFrame_tooLarge (Nat.not_lt.mp hpending) hlarge).symm.trans ht
      exact h
    · obtain ⟨u, hu, hframe, _, htxlen, hrest⟩ := (encodeFrame s).2.2 (Nat.not_lt.mp hpending) (Nat.not_lt.mp hlarge)
      cases hu.symm.trans ht
      refine ⟨?txpos, .inr ⟨s.payload, ?fits, ?length, ?bytes⟩⟩
      case txpos => rw [hrest]; exact Nat.zero_le _
      case fits => rw [s.length_payload]; exact Nat.not_lt.mp hlarge
      case length => rw [s.length_payload, htxlen]
      case bytes => rw [hframe, s.frameOf_payload]
  | txPop =>
    obtain ⟨hle, hframe⟩ := h
    by_cases hempty : s.txpos = s.txlen
    · cases (exec_txPop_empty hempty).symm.trans ht
      exact ⟨hle, hframe⟩
    by_cases hcap : s.txpos.toNat < 35
    · cases (exec_txPop_byte hempty hcap).symm.trans ht
      refine ⟨?_, hframe⟩
      show (s.txpos + 1).toNat ≤ s.txlen.toNat
      rw [toNat_add_one (by omega)]
      exact Nat.lt_of_le_of_ne hle fun heq => hempty (BitVec.eq_of_toNat_eq heq)
    · cases ((if_neg hempty).trans (if_pos (Nat.not_lt.mp hcap))).symm.trans ht
  | _ =>
    have hpos : t.txpos = s.txpos := exec_keeps_part (p := .txpos) rfl t ht
    obtain ⟨htxb, htxlen⟩ := Prod.mk.inj (exec_keeps_part (p := .frame) rfl t ht)
    unfold EncoderOk State.frame
    rw [hpos, htxb, htxlen]
    exact h

/-! ### The decoder -/

theorem decoderOk_of_decoderUnit (h : DecoderOk s) (hunit : t.decoderUnit = s.decoderUnit) : DecoderOk t := by
  obtain ⟨hstate, herr, hexp, hcnt, hcrc, hdb⟩ := (State.decoderUnit_eq_iff s t).mp hunit
  unfold DecoderOk CountsOk State.decoded
  rw [hstate, herr, hexp, hcnt, hcrc, hdb]
  exact h

theorem crc8_append_singleton (bs : List Byte) (b : Byte) : crc8 (bs ++ [b]) = crcUpdate (crc8 bs) b :=
  List.foldl_concat ..

theorem decoderOk_respond (s : State) (e : Status) (r : Result) : DecoderOk (s.respond e r) ↔ DecoderOk s :=
  Iff.rfl

theorem countsOk_waitData (hd : s.dstate = .waitData) : CountsOk s ↔ s.dcnt.toNat < s.dexp.toNat := by
  rw [CountsOk, hd]

theorem countsOk_waitCrc (hd : s.dstate = .waitCrc) : CountsOk s ↔ s.dcnt = s.dexp := by
  rw [CountsOk, hd]

theorem countsOk_ready (hd : s.dstate = .ready) : CountsOk s ↔ s.dcnt = s.dexp := by
  rw [CountsOk, hd]

/-- A length byte: DEXP is the length, and no byte has been received. -/
theorem decoderOk_sized {b : Byte} (hb : b.toNat ≤ 32) (herr : s.derr = .none) :
    DecoderOk { s with dexp := b, dcnt := 0, dcrc := 0x00, dstate := if b = 0 then .waitCrc else .waitData } := by
  by_cases hzero : b = 0
  · have hstate : (if b = 0 then DecState.waitCrc else .waitData) = .waitCrc := if_pos hzero
    exact ⟨hb, rfl, iff_of_true herr (hstate.trans_ne nofun), (countsOk_waitCrc hstate).mpr hzero.symm⟩
  · have hstate : (if b = 0 then DecState.waitCrc else .waitData) = .waitData := if_neg hzero
    have hpos : 0 < b.toNat := Nat.pos_of_ne_zero fun h => hzero (BitVec.eq_of_toNat_eq h)
    exact ⟨hb, rfl, iff_of_true herr (hstate.trans_ne nofun), (countsOk_waitData hstate).mpr hpos⟩

/-- A payload byte: it is stored after the bytes received so far, and DCRC takes it in. -/
theorem decoderOk_stored {b : Byte} (h : DecoderOk s) (herr : s.derr = .none) (hcount : s.dcnt.toNat < s.dexp.toNat) :
    DecoderOk { s with
      db := s.db.write s.dcnt.toNat b, dcnt := s.dcnt + 1, dcrc := crcUpdate s.dcrc b,
      dstate := if s.dcnt + 1 = s.dexp then .waitCrc else .waitData } := by
  obtain ⟨hexp, hcrc, _, _⟩ := h
  have hnext : (s.dcnt + 1).toNat = s.dcnt.toNat + 1 := toNat_add_one (by omega)
  have hcrc' : crcUpdate s.dcrc b = crc8 ((s.db.write s.dcnt.toNat b).slice (s.dcnt + 1).toNat) := by
    rw [hnext, Memory.slice_write_end, crc8_append_singleton, hcrc]
    rfl
  by_cases hlast : s.dcnt + 1 = s.dexp
  · have hstate : (if s.dcnt + 1 = s.dexp then DecState.waitCrc else .waitData) = .waitCrc := if_pos hlast
    exact ⟨hexp, hcrc', iff_of_true herr (hstate.trans_ne nofun), (countsOk_waitCrc hstate).mpr hlast⟩
  · have hstate : (if s.dcnt + 1 = s.dexp then DecState.waitCrc else .waitData) = .waitData := if_neg hlast
    have hmore : (s.dcnt + 1).toNat < s.dexp.toNat :=
      Nat.lt_of_le_of_ne (hnext ▸ hcount) fun heq => hlast (BitVec.eq_of_toNat_eq heq)
    exact ⟨hexp, hcrc', iff_of_true herr (hstate.trans_ne nofun), (countsOk_waitData hstate).mpr hmore⟩

/-- A framing error leaves the counts as they are: both 0 before the payload, and equal after it. -/
theorem decoderOk_error (h : DecoderOk s) (hcounts : s.dcnt = s.dexp) {d : DecErr} (hd : d ≠ .none) :
    DecoderOk { s with dstate := .error, derr := d } := by
  obtain ⟨hexp, hcrc, _, _⟩ := h
  exact ⟨hexp, hcrc, iff_of_false hd (· rfl), hcounts⟩

theorem countsOk_beforeLength (h : CountsOk s) (hd : s.dstate = .waitHeader ∨ s.dstate = .waitLength) :
    s.dexp = 0 ∧ s.dcnt = 0 := by
  unfold CountsOk at h
  rcases hd with hd | hd <;> rwa [hd] at h

theorem decoderOk_of_feedEnds {b : Byte} (h : DecoderOk s) (hends : FeedEnds b s t) : DecoderOk t := by
  have hdec := h
  obtain ⟨hexp, hcrc, herr, hcounts⟩ := h
  cases hends with
  | started hd =>
    have hzero := countsOk_beforeLength hcounts (.inl hd)
    exact ⟨hexp, hcrc, iff_of_true (herr.mpr (hd.trans_ne nofun)) nofun, hzero⟩
  | sized hd hb => exact (decoderOk_respond ..).mpr (decoderOk_sized hb (herr.mpr (hd.trans_ne nofun)))
  | stored hd _ =>
    exact (decoderOk_respond ..).mpr
      (decoderOk_stored hdec (herr.mpr (hd.trans_ne nofun)) ((countsOk_waitData hd).mp hcounts))
  | checked hd =>
    exact ⟨hexp, hcrc, iff_of_true (herr.mpr (hd.trans_ne nofun)) nofun, (countsOk_waitCrc hd).mp hcounts⟩
  | badHeader hd =>
    obtain ⟨hexp0, hcnt0⟩ := countsOk_beforeLength hcounts (.inl hd)
    exact (decoderOk_respond ..).mpr (decoderOk_error hdec (hcnt0.trans hexp0.symm) nofun)
  | tooLong hd =>
    obtain ⟨hexp0, hcnt0⟩ := countsOk_beforeLength hcounts (.inr hd)
    exact (decoderOk_respond ..).mpr (decoderOk_error hdec (hcnt0.trans hexp0.symm) nofun)
  | badCrc hd => exact (decoderOk_respond ..).mpr (decoderOk_error hdec ((countsOk_waitCrc hd).mp hcounts) nofun)
  | full | refused => exact hdec

theorem decoderOk_resetDecoder (s : State) : DecoderOk s.resetDecoder :=
  ⟨Nat.zero_le 32, rfl, iff_of_true rfl nofun, rfl, rfl⟩

theorem exec_keeps_decoderOk (h : DecoderOk s) (ht : exec i s = .next t) : DecoderOk t := by
  cases i with
  | reset => cases ht; exact resetMeetsInvariant.decoder
  | decRst => cases ht; exact decoderOk_resetDecoder s
  | decFeed b => exact decoderOk_of_feedEnds h (feedEnds_of_next ht)
  | decTake =>
    by_cases hready : s.dstate = .ready
    · obtain ⟨hexp, _⟩ := h
      cases (exec_decTake_ready hready hexp).symm.trans ht
      exact decoderOk_resetDecoder _
    · cases (exec_decTake_notReady hready).symm.trans ht
      exact h
  | _ => exact decoderOk_of_decoderUnit h (exec_keeps_decoder rfl s t ht)

/-! ### The field engine -/

section
variable {e : Status} {idx : Nat}

theorem toNat_ofNat_entry (h : idx ≤ 32) : (BitVec.ofNat 6 idx).toNat = idx := by
  rw [BitVec.toNat_ofNat, Nat.mod_eq_of_lt (by omega)]

theorem toNat_ofNat_index (h : idx ≤ 32) : (BitVec.ofNat 6 idx).toNat ≤ 32 :=
  (toNat_ofNat_entry h).trans_le h

theorem engineOk_halted (h : EngineOk s) (he : e.isFatal = true) (hidx : idx ≤ 32) : EngineOk (halted s e idx) := by
  obtain ⟨hsig, hvqi, hvqo, hin, hout, _, _⟩ := h
  exact ⟨hsig, hvqi, hvqo, hin, hout, toNat_ofNat_index hidx, iff_of_true rfl he⟩

theorem engineOk_packFailed (h : EngineOk s) (hidle : s.feState = .idle) (he : e.isFatal = false) (hidx : idx ≤ 32) :
    EngineOk (packFailed s e idx) := by
  obtain ⟨hsig, hvqi, hvqo, hin, hout, _, _⟩ := h
  exact ⟨hsig, hvqi, hvqo, hin, hout, toNat_ofNat_index hidx, iff_of_false (hidle ▸ nofun) (he ▸ nofun)⟩

theorem engineOk_unpackFailed (h : EngineOk s) (hidle : s.feState = .idle) (he : e.isFatal = false) (hidx : idx ≤ 32) :
    EngineOk (unpackFailed s e idx) := by
  obtain ⟨hsig, hvqi, _, hin, _, _, _⟩ := h
  exact ⟨hsig, hvqi, Nat.zero_le 32, hin, nofun, toNat_ofNat_index hidx, iff_of_false (hidle ▸ nofun) (he ▸ nofun)⟩

theorem engineOk_packCommitted (h : EngineOk s) (hidle : s.feState = .idle) (out : List Byte) (last : Byte) :
    EngineOk (packCommitted s out last) := by
  obtain ⟨hsig, _, hvqo, _, hout, _, _⟩ := h
  exact ⟨hsig, Nat.zero_le 32, hvqo, nofun, hout, hsig, iff_of_false (hidle ▸ nofun) nofun⟩

theorem engineOk_unpackCommitted (h : EngineOk s) (hidle : s.feState = .idle) {res : List Value}
    (hlen : res.length = s.siglen.toNat) (hlegal : ∀ v ∈ res, v.Legal) (cur : Nat) (last : Byte) :
    EngineOk (unpackCommitted s res cur last) := by
  obtain ⟨hsig, hvqi, _, hin, _, _, _⟩ := h
  exact ⟨hsig, hvqi, hlen ▸ hsig, hin, hlegal, hsig, iff_of_false (hidle ▸ nofun) nofun⟩

end

theorem entryFailure_isFatal {idx : Nat} {e : Status} (h : entryFailure s idx = some e) : e.isFatal = true := by
  unfold entryFailure at h
  split at h
  · cases h; rfl
  · split at h <;> cases h
    rfl

/-- Validation fails with a fatal status, at an entry of the signature. -/
theorem firstFailure_eq_some {idx : Nat} {e : Status} (h : firstFailure s = some (idx, e)) :
    e.isFatal = true ∧ idx < s.siglen.toNat := by
  obtain ⟨j, hj, hfail⟩ := List.exists_of_findSome?_eq_some h
  obtain ⟨e', he', heq⟩ := Option.map_eq_some_iff.mp hfail
  cases heq
  exact ⟨entryFailure_isFatal he', List.mem_range.mp hj⟩

theorem unpackField_legal {k : Byte} {rx : List Byte} {cur cur' : Nat} {last last' : Byte} {v : Value}
    (hrx : rx.length ≤ 255) (h : unpackField k rx cur last = .ok (v, cur', last')) : v.Legal := by
  have hrest : (rx.drop cur).length ≤ 255 := (List.drop_sublist cur rx).length_le.trans hrx
  unfold unpackField at h
  split at h
  case h_4 =>
    split at h <;> cases h
    · exact (List.length_take_le' ..).trans hrest
    · exact hrest
  case h_5 =>
    split at h <;> cases h
    exact (List.length_take_le' ..).trans hrest
  all_goals
    split at h <;> cases h
    trivial

theorem unpackLoop_length {rx kinds : List Byte} {i cur cur' : Nat} {last last' : Byte} {res res' : List Value}
    (h : unpackLoop rx kinds i cur last res = .ok (res', cur', last')) : res'.length = res.length + kinds.length := by
  induction kinds generalizing i cur last res with
  | nil => cases h; rfl
  | cons k kinds ih =>
    unfold unpackLoop at h
    split at h
    · cases h
    · rw [ih h, List.length_append, List.length_singleton, List.length_cons]
      omega

theorem unpackLoop_legal {rx kinds : List Byte} (hrx : rx.length ≤ 255) {i cur cur' : Nat} {last last' : Byte}
    {res res' : List Value} (h : unpackLoop rx kinds i cur last res = .ok (res', cur', last'))
    (hres : ∀ v ∈ res, v.Legal) : ∀ v ∈ res', v.Legal := by
  induction kinds generalizing i cur last res with
  | nil => cases h; exact hres
  | cons k kinds ih =>
    unfold unpackLoop at h
    split at h
    · cases h
    · next hu =>
      have hlegal := List.forall_mem_singleton.mpr (unpackField_legal hrx hu)
      exact ih h (List.forall_mem_append.mpr ⟨hres, hlegal⟩)

theorem engineOk_of_parts (h : EngineOk s) (hkeep : ∀ p : Part, p.ofFieldEngine = true → t.part p = s.part p) :
    EngineOk t := by
  have hsiglen : t.siglen = s.siglen := hkeep .siglen rfl
  have hvqi : t.vqi = s.vqi := hkeep .vqi rfl
  have hvqo : t.vqo = s.vqo := hkeep .vqo rfl
  obtain ⟨hstate, _⟩ := Prod.mk.inj (hkeep .engine rfl)
  obtain ⟨herr, hidx⟩ := Prod.mk.inj (hkeep .runError rfl)
  unfold EngineOk
  rw [hsiglen, hvqi, hvqo, hstate, herr, hidx]
  exact h

theorem pushValue_keeps_engineOk {v : Value} (hv : v.Legal) (h : EngineOk s) (ht : pushValue v s = .next t) :
    EngineOk t := by
  rcases pushValue_next ht with ⟨_, rfl⟩ | ⟨hroom, rfl⟩
  · exact h
  · obtain ⟨hsig, hvqi, hrest⟩ := h
    obtain ⟨hvqo, hin, hrest⟩ := hrest
    refine ⟨hsig, ?_, hvqo, List.forall_mem_append.mpr ⟨hin, List.forall_mem_singleton.mpr hv⟩, hrest⟩
    rw [State.respond_vqi, List.length_append, List.length_singleton]
    exact Nat.lt_of_le_of_ne hvqi hroom

theorem execVqPop_keeps_engineOk (h : EngineOk s) (ht : exec .vqPop s = .next t) : EngineOk t := by
  rcases feGate_next ht with ⟨_, rfl⟩ | ⟨hidle, _⟩
  · exact h
  cases hq : s.vqo with
  | nil => cases (exec_vqPop_empty hidle hq).symm.trans ht; exact h
  | cons v vs =>
    cases (exec_vqPop_head hidle hq).symm.trans ht
    obtain ⟨hsig, hvqi, hvqo, hin, hout, hrest⟩ := h
    rw [hq] at hvqo hout
    exact ⟨hsig, hvqi, (Nat.le_succ _).trans hvqo, hin, List.forall_mem_of_forall_mem_cons hout, hrest⟩

theorem execSigApp_keeps_engineOk {k : Byte} (h : EngineOk s) (ht : exec (.sigApp k) s = .next t) : EngineOk t := by
  rcases feGate_next ht with ⟨_, rfl⟩ | ⟨hidle, _⟩
  · exact h
  have hall := h
  obtain ⟨hsig, hrest⟩ := h
  rcases Nat.lt_or_eq_of_le hsig with hroom | hfull
  · obtain ⟨u, hu, _, _, hlen, hframe⟩ := (signatureAppend s k).2.2 hidle hroom
    cases hu.symm.trans ht
    rw [hframe]
    refine ⟨?_, hrest⟩
    show t.siglen.toNat ≤ 32
    rw [hlen]
    exact hroom
  · cases (exec_sigApp_full hidle hfull).symm.trans ht
    exact hall

theorem engineOk_of_packEnds (h : EngineOk s) (hends : PackEnds s t) : EngineOk t := by
  have hcap : s.siglen.toNat ≤ 32 := h.1
  cases hends with
  | refused => exact h
  | invalid _ hfail =>
    obtain ⟨hfatal, hidx⟩ := firstFailure_eq_some hfail
    exact engineOk_halted h hfatal (hidx.le.trans hcap)
  | miscounted hidle => exact engineOk_packFailed h hidle rfl ((Nat.min_le_right _ _).trans hcap)
  | abandoned hidle hcount hfields =>
    obtain ⟨hstatus, hidx⟩ := packLoop_error hfields
    refine engineOk_packFailed h hidle (by rcases hstatus with rfl | rfl | rfl <;> rfl) ?_
    simp only [List.length_zip, State.length_signature, hcount] at hidx
    omega
  | committed hidle _ => exact engineOk_packCommitted h hidle _ _

theorem engineOk_of_unpackEnds (h : EngineOk s) (hends : UnpackEnds s t) : EngineOk t := by
  have hcap : s.siglen.toNat ≤ 32 := h.1
  cases hends with
  | refused => exact h
  | invalid _ hfail =>
    obtain ⟨hfatal, hidx⟩ := firstFailure_eq_some hfail
    exact engineOk_halted h hfatal (hidx.le.trans hcap)
  | abandoned hidle hfields =>
    obtain ⟨rfl, hidx⟩ := unpackLoop_error hfields
    rw [State.length_signature] at hidx
    exact engineOk_unpackFailed h hidle rfl (by omega)
  | committed hidle hfields =>
    have hrx : s.received.length ≤ 255 := s.length_received ▸ Nat.le_of_lt_succ s.rxlen.isLt
    refine engineOk_unpackCommitted h hidle ?_ (unpackLoop_legal hrx hfields nofun) _ _
    simpa using unpackLoop_length hfields

theorem exec_keeps_engineOk (hi : i.isCommand = true) (h : EngineOk s) (ht : exec i s = .next t) : EngineOk t := by
  cases i with
  | reset | feRst => cases ht; exact resetMeetsInvariant.engine
  | sigClr =>
    rcases feGate_next ht with ⟨_, rfl⟩ | ⟨_, hrun⟩
    · exact h
    · cases hrun; exact ⟨Nat.zero_le 32, h.2⟩
  | vqiClr =>
    rcases feGate_next ht with ⟨_, rfl⟩ | ⟨_, hrun⟩
    · exact h
    · obtain ⟨hsig, _, hvqo, _, hrest⟩ := h
      cases hrun
      exact ⟨hsig, Nat.zero_le 32, hvqo, nofun, hrest⟩
  | sigApp k => exact execSigApp_keeps_engineOk h ht
  | vqPushw w =>
    rcases feGate_next ht with ⟨_, rfl⟩ | ⟨_, hpush⟩
    · exact h
    · exact pushValue_keeps_engineOk (v := .word w) trivial h hpush
  | vqPushb bs =>
    rcases feGate_next ht with ⟨_, rfl⟩ | ⟨_, hpush⟩
    · exact h
    · exact pushValue_keeps_engineOk (v := .bytes bs) (isCommand_vqPushb_iff.mp hi) h hpush
  | vqPop => exact execVqPop_keeps_engineOk h ht
  | pack => exact engineOk_of_packEnds h (packEnds_of_next ht)
  | unpack => exact engineOk_of_unpackEnds h (unpackEnds_of_next ht)
  | u8 | i16 | u16 | i32 | u32 | f32 | cstr | blob => cases hi
  | _ =>
    refine engineOk_of_parts h fun p hp => exec_keeps_part ?_ t ht
    exact writes_fieldEngine_eq_false (by rfl) (by rfl) (by nofun) (by nofun) hp

/-! ### A run in progress -/

theorem runOk_none (h : s.run = none) : RunOk s := by
  rw [RunOk, h]
  trivial

theorem runOk_pack {r : Run} (hrun : s.run = some r) (hmode : r.mode = .pack) :
    RunOk s ↔ s.feState = .idle ∧ validate s.signature = none ∧ r.idx ≤ s.siglen.toNat ∧
      s.vqi.length = s.siglen.toNat ∧ s.plen.toNat + r.out.length ≤ 255 := by
  rw [RunOk, hrun]
  simp only [hmode]
  rfl

theorem runOk_unpack {r : Run} (hrun : s.run = some r) (hmode : r.mode = .unpack) :
    RunOk s ↔ s.feState = .idle ∧ validate s.signature = none ∧ r.idx ≤ s.siglen.toNat ∧
      r.cur ≤ s.rxlen.toNat ∧ r.res.length = r.idx ∧ ∀ v ∈ r.res, v.Legal := by
  rw [RunOk, hrun]
  simp only [hmode]

/-- The invariant of a state that differs from `s` in its field engine and its run. -/
theorem inv_of_sameUnits (h : Inv s) (hm : MemoriesOk t) (henc : EncoderOk t ↔ EncoderOk s)
    (hdec : DecoderOk t ↔ DecoderOk s) (heng : EngineOk t) (hrun : RunOk t) : Inv t :=
  ⟨hm, henc.mpr h.encoder, hdec.mpr h.decoder, heng, hrun⟩

theorem inv_withRun_pack (h : Inv s) {r : Run} (hmode : r.mode = .pack) (hidle : s.feState = .idle)
    (hvalid : validate s.signature = none) (hidx : r.idx ≤ s.siglen.toNat) (hcount : s.vqi.length = s.siglen.toNat)
    (hroom : s.plen.toNat + r.out.length ≤ 255) : Inv (withRun s r) :=
  inv_of_sameUnits h h.memories Iff.rfl Iff.rfl h.engine
    ((runOk_pack withRun_run hmode).mpr ⟨hidle, hvalid, hidx, hcount, hroom⟩)

theorem inv_withRun_unpack (h : Inv s) {r : Run} (hmode : r.mode = .unpack) (hidle : s.feState = .idle)
    (hvalid : validate s.signature = none) (hidx : r.idx ≤ s.siglen.toNat) (hcur : r.cur ≤ s.rxlen.toNat)
    (hlen : r.res.length = r.idx) (hlegal : ∀ v ∈ r.res, v.Legal) : Inv (withRun s r) :=
  inv_of_sameUnits h h.memories Iff.rfl Iff.rfl h.engine
    ((runOk_unpack withRun_run hmode).mpr ⟨hidle, hvalid, hidx, hcur, hlen, hlegal⟩)

section
variable {e : Status} {idx : Nat}

theorem inv_packFailed (h : Inv s) (hidle : s.feState = .idle) (he : e.isFatal = false) (hidx : idx ≤ 32) :
    Inv (packFailed s e idx) :=
  inv_of_sameUnits h h.memories Iff.rfl Iff.rfl (engineOk_packFailed h.engine hidle he hidx) (runOk_none rfl)

theorem inv_unpackFailed (h : Inv s) (hidle : s.feState = .idle) (he : e.isFatal = false) (hidx : idx ≤ 32) :
    Inv (unpackFailed s e idx) :=
  inv_of_sameUnits h h.memories Iff.rfl Iff.rfl (engineOk_unpackFailed h.engine hidle he hidx) (runOk_none rfl)

theorem inv_halted (h : Inv s) (he : e.isFatal = true) (hidx : idx ≤ 32) : Inv (halted s e idx) :=
  inv_of_sameUnits h h.memories Iff.rfl Iff.rfl (engineOk_halted h.engine he hidx) (runOk_none rfl)

end

/-- One field of a PACK run: its bytes fit, or the run is abandoned. -/
theorem packNext_keeps_inv (h : Inv s) {r : Run} (hrun : s.run = some r) (hmode : r.mode = .pack)
    (hidx : r.idx < s.siglen.toNat) {k : Byte} {v : Value} :
    (∀ r', r.packNext s.plen.toNat (packField k) v = .ok r' → Inv (withRun s r')) ∧
    ∀ e, r.packNext s.plen.toNat (packField k) v = .error e → Inv (packFailed s e r.idx) := by
  obtain ⟨hidle, hvalid, _, hcount, _⟩ := (runOk_pack hrun hmode).mp h.noBadRun
  refine ⟨fun r' hok => ?moves, fun e hfail => ?abandons⟩
  case moves =>
    obtain ⟨bs, last', _, hroom, rfl⟩ := Run.packNext_ok hok
    refine inv_withRun_pack h hmode hidle hvalid hidx hcount ?_
    rw [List.length_append, ← Nat.add_assoc]
    exact hroom
  case abandons =>
    have hstatus : e.isFatal = false := by rcases packNext_packField_error hfail with rfl | rfl | rfl <;> rfl
    exact inv_packFailed h hidle hstatus (hidx.le.trans h.engine.1)

/-- One field of an UNPACK run: its value is legal and its bytes are within RXB, or the run is abandoned. -/
theorem unpackNext_keeps_inv (h : Inv s) {r : Run} (hrun : s.run = some r) (hmode : r.mode = .unpack)
    (hidx : r.idx < s.siglen.toNat) {k : Byte} :
    (∀ r', r.unpackNext s.received (unpackField k) = .ok r' → Inv (withRun s r')) ∧
    ∀ e, r.unpackNext s.received (unpackField k) = .error e → Inv (unpackFailed s e r.idx) := by
  obtain ⟨hidle, hvalid, _, _, hlen, hlegal⟩ := (runOk_unpack hrun hmode).mp h.noBadRun
  refine ⟨fun r' hok => ?moves, fun e hfail => ?abandons⟩
  case moves =>
    obtain ⟨v, cur', last', hu, rfl⟩ := Run.unpackNext_ok hok
    have hrx : s.received.length ≤ 255 := s.length_received ▸ Nat.le_of_lt_succ s.rxlen.isLt
    refine inv_withRun_unpack h hmode hidle hvalid hidx (s.length_received ▸ unpackField_cursor_le hu) ?_
      (List.forall_mem_append.mpr ⟨hlegal, List.forall_mem_singleton.mpr (unpackField_legal hrx hu)⟩)
    rw [List.length_append, List.length_singleton, hlen]
  case abandons =>
    obtain rfl := unpackField_error (Run.unpackNext_error hfail)
    exact inv_unpackFailed h hidle rfl (hidx.le.trans h.engine.1)

theorem fieldStep_keeps_inv (h : Inv s) {r : Run} (hrun : s.run = some r) (hidx : r.idx < s.siglen.toNat) {k : Byte}
    (ht : fieldStep (packField k) (unpackField k) s = .next t) : Inv t := by
  obtain ⟨r₀, hr₀, hcases⟩ := fieldStep_next ht
  obtain rfl : r = r₀ := Option.some.inj (hrun.symm.trans hr₀)
  rcases hcases with ⟨hmode, v, _, ⟨r', hok, rfl⟩ | ⟨e, hfail, he⟩⟩ | ⟨hmode, ⟨r', hok, rfl⟩ | ⟨e, hfail, he⟩⟩
  · exact (packNext_keeps_inv h hrun hmode hidx).1 r' hok
  · rw [abandonPack_eq_next.mp he]
    exact (packNext_keeps_inv h hrun hmode hidx).2 e hfail
  · exact (unpackNext_keeps_inv h hrun hmode hidx).1 r' hok
  · rw [abandonUnpack_eq_next.mp he]
    exact (unpackNext_keeps_inv h hrun hmode hidx).2 e hfail

theorem commitRun_keeps_inv (h : Inv s) {r : Run} (hrun : s.run = some r) (hdone : s.siglen.toNat ≤ r.idx)
    (ht : commitRun r s = .next t) : Inv t := by
  have hm : MemoriesOk t := commitRun_keeps_memoriesOk h.memories ht
  unfold commitRun at ht
  split at ht
  case h_1 hmode =>
    obtain ⟨hidle, _⟩ := (runOk_pack hrun hmode).mp h.noBadRun
    obtain ⟨_, rfl⟩ := commitPack_next ht
    exact inv_of_sameUnits h hm Iff.rfl Iff.rfl (engineOk_packCommitted h.engine hidle r.out r.last) (runOk_none rfl)
  case h_2 hmode =>
    obtain ⟨hidle, _, hidx, _, hlen, hlegal⟩ := (runOk_unpack hrun hmode).mp h.noBadRun
    cases commitUnpack_eq_next.mp ht
    exact inv_of_sameUnits h hm Iff.rfl Iff.rfl
      (engineOk_unpackCommitted h.engine hidle (hlen.trans (hidx.antisymm hdone)) hlegal r.cur r.last) (runOk_none rfl)

theorem microStep_keeps_inv (h : Inv s) {r : Run} (hrun : s.run = some r) (ht : microStep r s = .next t) : Inv t := by
  rcases microStep_next ht with ⟨hidx, _, ⟨i, hk, hi⟩ | ⟨_, hhalt⟩⟩ | ⟨hdone, hcommit⟩
  · exact fieldStep_keeps_inv h hrun hidx (exec_eq_fieldStep_of_code hk s ▸ hi)
  · have heq : t = halted s .unknownFieldKind r.idx := haltEngine_eq_next.mp hhalt
    exact heq ▸ inv_halted h rfl (hidx.le.trans h.engine.1)
  · exact commitRun_keeps_inv h hrun hdone hcommit

/-! ### Every step -/

theorem isFieldKind_of_isCommand (hi : i.isCommand = true) : i.isFieldKind = false := by
  rw [Instr.isCommand, Bool.and_eq_true, Bool.not_eq_true'] at hi
  exact hi.2

theorem exec_keeps_inv (hi : i.isCommand = true) (h : Inv s) (hrun : s.run = none)
    (ht : exec i s = .next t) : Inv t where
  memories := exec_keeps_memoriesOk h.memories ht
  encoder := exec_keeps_encoderOk h.encoder ht
  decoder := exec_keeps_decoderOk h.decoder ht
  engine := exec_keeps_engineOk hi h.engine ht
  noBadRun := runOk_none (exec_completes (isFieldKind_of_isCommand hi) hrun t ht).run

/-- The command port is no part of the invariant. -/
theorem inv_inp (h : Inv s) (bytes : List Byte) : Inv { s with inp := bytes } :=
  ⟨h.memories, h.encoder, h.decoder, h.engine, h.noBadRun⟩

/-- Settles O52: a command keeps each unit's part of the invariant, a step of a run keeps its variables in bounds. -/
theorem stepKeepsInvariant : Obligations.StepKeepsInvariant := by
  intro s t h ht
  rcases step_next ht with ⟨r, hrun, hr⟩ | ⟨hrun, ⟨i, rest, hd, hi⟩ | ⟨_, rest, _, rfl⟩ | ⟨_, rfl⟩⟩
  · exact microStep_keeps_inv h hrun hr
  · exact exec_keeps_inv (commandBytesAreUnique _ _ _ hd).1 (inv_inp h rest) hrun hi
  · exact ⟨h.memories, h.encoder, h.decoder, h.engine, h.noBadRun⟩
  · exact h

/-! ### No step stops -/

theorem exists_answer_ite {c : Prop} [Decidable c] {a b : Host.Outcome State Fault Refusal} (ha : ∃ t, a = .next t)
    (hb : ∃ t, b = .next t) : ∃ t, (if c then a else b) = .next t := by
  split
  · exact ha
  · exact hb

theorem exists_answer_feGate {body : Host.Outcome State Fault Refusal}
    (h : s.feState = .idle → ∃ t, body = .next t) : ∃ t, feGate s body = .next t := by
  cases hfe : s.feState with
  | fatal => exact ⟨_, feGate_fatal hfe body⟩
  | idle =>
    rw [feGate_idle hfe]
    exact h hfe

theorem exists_answer_regRd (r : Byte) : ∃ t, exec (.regRd r) s = .next t := by
  cases hreg : s.register r with
  | some w => exact ⟨_, exec_regRd_register hreg⟩
  | none => exact ⟨_, exec_regRd_noRegister hreg⟩

/-- A frame has at most 35 bytes, so the byte at TXPOS is within TXB. -/
theorem exists_answer_txPop (h : EncoderOk s) : ∃ t, exec .txPop s = .next t := by
  obtain ⟨hle, hframe⟩ := h
  by_cases hempty : s.txpos = s.txlen
  · exact ⟨_, exec_txPop_empty hempty⟩
  have hlt : s.txpos.toNat < s.txlen.toNat := Nat.lt_of_le_of_ne hle fun heq => hempty (BitVec.eq_of_toNat_eq heq)
  have hlen : s.txlen.toNat ≤ 35 := by
    rcases hframe with hzero | ⟨p, hfits, hlen, _⟩
    · rw [hzero]; exact Nat.zero_le 35
    · exact hlen ▸ Nat.add_le_add_right hfits 3
  exact ⟨_, exec_txPop_byte hempty (hlt.trans_le hlen)⟩

theorem exists_answer_decFeed (h : DecoderOk s) (b : Byte) : ∃ t, exec (.decFeed b) s = .next t := by
  obtain ⟨hexp, _, _, hcounts⟩ := h
  obtain ⟨t, ht, _⟩ := exists_feedEnds b fun hd => ((countsOk_waitData hd).mp hcounts).trans_le hexp
  exact ⟨t, ht⟩

theorem exists_answer_decTake (h : DecoderOk s) : ∃ t, exec .decTake s = .next t := by
  by_cases hready : s.dstate = .ready
  · exact ⟨_, exec_decTake_ready hready h.1⟩
  · exact ⟨_, exec_decTake_notReady hready⟩

theorem exists_answer_sigApp (h : s.siglen.toNat ≤ 32) (k : Byte) : ∃ t, exec (.sigApp k) s = .next t := by
  have hcap : ¬ Config.sigCap < s.siglen.toNat := Nat.not_lt.mpr h
  refine exists_answer_feGate fun _ => exists_answer_ite ⟨_, rfl⟩ ?_
  rw [if_neg hcap]
  exact ⟨_, rfl⟩

theorem exists_answer_vqPop : ∃ t, exec .vqPop s = .next t := by
  refine exists_answer_feGate fun _ => ?_
  split <;> exact ⟨_, rfl⟩

theorem exec_exists_next (hi : i.isCommand = true) (h : Inv s) : ∃ t, exec i s = .next t := by
  cases i with
  | u8 | i16 | u16 | i32 | u32 | f32 | cstr | blob => cases hi
  | nop | reset | crcClr | crcUpd | crcRd | pbClr | decRst | rxClr | feRst => exact ⟨_, rfl⟩
  | regRd r => exact exists_answer_regRd r
  | pbApp | pbRd | rxApp | rxRd => exact exists_answer_ite ⟨_, rfl⟩ ⟨_, rfl⟩
  | encFrame => exact exists_answer_ite ⟨_, rfl⟩ (exists_answer_ite ⟨_, rfl⟩ ⟨_, rfl⟩)
  | txPop => exact exists_answer_txPop h.encoder
  | decFeed b => exact exists_answer_decFeed h.decoder b
  | decTake => exact exists_answer_decTake h.decoder
  | sigClr | vqiClr => exact exists_answer_feGate fun _ => ⟨_, rfl⟩
  | sigApp k => exact exists_answer_sigApp h.engine.1 k
  | vqPushw | vqPushb => exact exists_answer_feGate fun _ => exists_answer_ite ⟨_, rfl⟩ ⟨_, rfl⟩
  | vqPop => exact exists_answer_vqPop
  | pack =>
    obtain ⟨t, ht, _⟩ := exists_packEnds h.engine.1
    exact ⟨t, ht⟩
  | unpack =>
    obtain ⟨t, ht, _⟩ := exists_unpackEnds h.engine.1
    exact ⟨t, ht⟩

/-- A field of a run answers whenever a PACK run has a value for it. -/
theorem exists_answer_fieldStep {r : Run} (hrun : s.run = some r)
    (hval : r.mode = .pack → ∃ v, s.vqi[r.idx]? = some v) (p : PackStep) (u : UnpackStep) :
    ∃ t, fieldStep p u s = .next t := by
  rw [← withRun_eq_self hrun]
  cases hmode : r.mode with
  | pack =>
    obtain ⟨v, hv⟩ := hval hmode
    cases hnext : r.packNext s.plen.toNat p v with
    | ok r' => exact ⟨_, fieldStep_pack_of_ok hmode hv hnext⟩
    | error e => exact ⟨_, fieldStep_pack_of_error hmode hv hnext⟩
  | unpack =>
    cases hnext : r.unpackNext s.received u with
    | ok r' => exact ⟨_, fieldStep_unpack_of_ok hmode hnext⟩
    | error e => exact ⟨_, fieldStep_unpack_of_error hmode hnext⟩

theorem firstFailure_of_runOk {r : Run} (h : RunOk s) (hrun : s.run = some r) : firstFailure s = none := by
  rw [← validate_signature]
  cases hmode : r.mode with
  | pack => exact ((runOk_pack hrun hmode).mp h).2.1
  | unpack => exact ((runOk_unpack hrun hmode).mp h).2.1

theorem microStep_exists_next (h : Inv s) {r : Run} (hrun : s.run = some r) : ∃ t, microStep r s = .next t := by
  rw [← withRun_eq_self hrun]
  by_cases hidx : r.idx < s.siglen.toNat
  · rw [microStep_field (firstFailure_of_runOk h.noBadRun hrun) h.engine.1 hidx]
    refine exists_answer_fieldStep withRun_run (fun hmode => ?_) _ _
    obtain ⟨_, _, _, hcount, _⟩ := (runOk_pack hrun hmode).mp h.noBadRun
    exact ⟨_, List.getElem?_eq_getElem (hcount ▸ hidx)⟩
  · rw [microStep_commit (Nat.not_lt.mp hidx)]
    cases hmode : r.mode with
    | pack =>
      obtain ⟨_, _, _, _, hroom⟩ := (runOk_pack hrun hmode).mp h.noBadRun
      exact ⟨_, commitRun_pack hmode hroom⟩
    | unpack => exact ⟨_, commitRun_unpack hmode⟩

/-- Settles O53: each access is within its buffer by the invariant, and the port decodes to no field kind. -/
theorem stepNeverStops : Obligations.StepNeverStops := by
  intro s h
  cases hrun : s.run with
  | some r =>
    rw [step_run hrun]
    exact microStep_exists_next h hrun
  | none =>
    cases hd : decode s.inp with
    | command i rest =>
      rw [step_command hrun hd]
      exact exec_exists_next (commandBytesAreUnique _ _ _ hd).1 (inv_inp h rest)
    | unassigned c rest => exact ⟨_, step_unassigned hrun hd⟩
    | incomplete => exact ⟨_, step_incomplete hrun hd⟩

end

end Sys2Proof.Machine

/-! Settles O55: buffer bytes beyond the valid lengths are unobservable (10_state.md section 6). -/

namespace Sys2Proof.Machine

open Sys2Proof.Reference

/-! ### Buffers with the same first entries -/

section
variable {n : Nat} {m m' : Memory}

theorem sameBelow_zero (m m' : Memory) : SameBelow 0 m m' :=
  fun _ hk => absurd hk (Nat.not_lt_zero _)

theorem SameBelow.slice_eq (h : SameBelow n m m') : m.slice n = m'.slice n :=
  Memory.slice_congr h

theorem SameBelow.write_end (h : SameBelow n m m') (b : Byte) : SameBelow (n + 1) (m.write n b) (m'.write n b) := by
  intro k hk
  by_cases hkn : k = n
  · rw [hkn, Memory.read_write_same, Memory.read_write_same]
  · rw [Memory.read_write_ne _ _ hkn, Memory.read_write_ne _ _ hkn]
    exact h k (by omega)

theorem SameBelow.writeList_end (h : SameBelow n m m') (bs : List Byte) :
    SameBelow (n + bs.length) (m.writeList n bs) (m'.writeList n bs) := by
  induction bs generalizing n m m' with
  | nil => exact h
  | cons b bs ih =>
    rw [List.length_cons, show n + (bs.length + 1) = n + 1 + bs.length by omega]
    exact ih (h.write_end b)

theorem sameBelow_writeList_zero (m m' : Memory) (bs : List Byte) :
    SameBelow bs.length (m.writeList 0 bs) (m'.writeList 0 bs) := by
  simpa only [Nat.zero_add] using (sameBelow_zero m m').writeList_end bs

end

/-! ### States that agree -/

/-- The contents of the five buffers. -/
structure Buffers where
  pb : Memory
  txb : Memory
  db : Memory
  rxb : Memory
  sig : Memory

/-- The state with other buffer contents. -/
def State.withBuffers (s : State) (m : Buffers) : State :=
  { s with pb := m.pb, txb := m.txb, db := m.db, rxb := m.rxb, sig := m.sig }

/-- The buffers `m` differ from those of `s` at most at or beyond the valid lengths. -/
structure SameVisible (s : State) (m : Buffers) : Prop where
  pb : SameBelow s.plen.toNat s.pb m.pb
  txb : SameBelow s.txlen.toNat s.txb m.txb
  db : SameBelow s.dcnt.toNat s.db m.db
  rxb : SameBelow s.rxlen.toNat s.rxb m.rxb
  sig : SameBelow s.siglen.toNat s.sig m.sig

theorem agree_iff {s t : State} : Agree s t ↔ ∃ m, SameVisible s m ∧ t = s.withBuffers m := by
  constructor
  · rintro ⟨hpb, htxb, hdb, hrxb, hsig, heq⟩
    exact ⟨⟨t.pb, t.txb, t.db, t.rxb, t.sig⟩, ⟨hpb, htxb, hdb, hrxb, hsig⟩, heq⟩
  · rintro ⟨m, ⟨hpb, htxb, hdb, hrxb, hsig⟩, rfl⟩
    exact ⟨hpb, htxb, hdb, hrxb, hsig, rfl⟩

/-- Two operations agree: they answer states that agree, or they stop for the same reason. -/
inductive AgreeOutcome : Host.Outcome State Fault Refusal → Host.Outcome State Fault Refusal → Prop
  | next {s t : State} (h : Agree s t) : AgreeOutcome (.next s) (.next t)
  | fault (f : Fault) : AgreeOutcome (.fault f) (.fault f)
  | refused (f : Refusal) : AgreeOutcome (.refused f) (.refused f)

section
variable {s t : State}

theorem AgreeOutcome.ite {c : Prop} [Decidable c] {a b a' b' : Host.Outcome State Fault Refusal}
    (ha : c → AgreeOutcome a a') (hb : ¬ c → AgreeOutcome b b') :
    AgreeOutcome (if c then a else b) (if c then a' else b') := by
  split
  · next h => exact ha h
  · next h => exact hb h

theorem SameVisible.agree {m : Buffers} (h : SameVisible s m) : Agree s (s.withBuffers m) :=
  agree_iff.mpr ⟨m, h, rfl⟩

theorem Agree.respond {u v : State} (h : Agree u v) (e : Status) (r : Result) :
    AgreeOutcome (.next (u.respond e r)) (.next (v.respond e r)) := by
  obtain ⟨hpb, htxb, hdb, hrxb, hsig, heq⟩ := h
  exact .next ⟨hpb, htxb, hdb, hrxb, hsig, congrArg (·.respond e r) heq⟩

theorem Agree.complete {u v : State} (h : Agree u v) : AgreeOutcome u.complete v.complete :=
  h.respond _ _

theorem Agree.raise {u v : State} (h : Agree u v) (e : Status) : AgreeOutcome (u.raise e) (v.raise e) :=
  h.respond _ _

theorem Agree.answer {u v : State} (h : Agree u v) {r r' : Result} (hr : r' = r) :
    AgreeOutcome (u.answer r) (v.answer r') := by
  rw [hr]
  exact h.respond _ _

section
variable {m : Buffers} (h : SameVisible s m)
include h

theorem SameVisible.feGate {a a' : Host.Outcome State Fault Refusal} (ha : AgreeOutcome a a') :
    AgreeOutcome (feGate s a) (feGate (s.withBuffers m) a') :=
  .ite (fun _ => h.agree.raise _) fun _ => ha

theorem SameVisible.payload_eq : (s.withBuffers m).payload = s.payload :=
  h.pb.slice_eq.symm

theorem SameVisible.received_eq : (s.withBuffers m).received = s.received :=
  h.rxb.slice_eq.symm

theorem SameVisible.signature_eq : (s.withBuffers m).signature = s.signature :=
  h.sig.slice_eq.symm

/-! ### Commands -/

theorem execPbRd_agree (i : Byte) : AgreeOutcome (exec (.pbRd i) s) (exec (.pbRd i) (s.withBuffers m)) :=
  .ite (fun _ => h.agree.raise _) fun hi =>
    h.agree.answer (congrArg Result.byte (h.pb _ (Nat.not_le.mp hi)).symm)

theorem execRxRd_agree (i : Byte) : AgreeOutcome (exec (.rxRd i) s) (exec (.rxRd i) (s.withBuffers m)) :=
  .ite (fun _ => h.agree.raise _) fun hi =>
    h.agree.answer (congrArg Result.byte (h.rxb _ (Nat.not_le.mp hi)).symm)

theorem execRegRd_agree (r : Byte) : AgreeOutcome (exec (.regRd r) s) (exec (.regRd r) (s.withBuffers m)) := by
  have hreg : (s.withBuffers m).register r = s.register r := rfl
  cases hr : s.register r with
  | some w =>
    rw [exec_regRd_register hr, exec_regRd_register (hreg.trans hr)]
    exact h.agree.answer rfl
  | none =>
    rw [exec_regRd_noRegister hr, exec_regRd_noRegister (hreg.trans hr)]
    exact h.agree.raise _

theorem execPbApp_agree (b : Byte) : AgreeOutcome (exec (.pbApp b) s) (exec (.pbApp b) (s.withBuffers m)) := by
  refine .ite (fun _ => h.agree.raise _) fun hroom => Agree.complete ⟨?_, h.txb, h.db, h.rxb, h.sig, rfl⟩
  have hlen : (s.plen + 1).toNat = s.plen.toNat + 1 := toNat_add_one hroom
  exact hlen ▸ h.pb.write_end b

theorem execRxApp_agree (b : Byte) : AgreeOutcome (exec (.rxApp b) s) (exec (.rxApp b) (s.withBuffers m)) := by
  refine .ite (fun _ => h.agree.raise _) fun hroom => Agree.complete ⟨h.pb, h.txb, h.db, ?_, h.sig, rfl⟩
  have hlen : (s.rxlen + 1).toNat = s.rxlen.toNat + 1 := toNat_add_one hroom
  exact hlen ▸ h.rxb.write_end b

theorem execSigApp_agree (k : Byte) : AgreeOutcome (exec (.sigApp k) s) (exec (.sigApp k) (s.withBuffers m)) := by
  refine h.feGate (.ite (fun _ => h.agree.raise _) fun hfull => .ite (fun _ => .fault _) fun hcap =>
    Agree.complete ⟨h.pb, h.txb, h.db, h.rxb, ?_, rfl⟩)
  have hroom : s.siglen.toNat < 32 := Nat.lt_of_le_of_ne (Nat.not_lt.mp hcap) hfull
  have hlen : (s.siglen + 1).toNat = s.siglen.toNat + 1 := by bv_omega
  exact hlen ▸ h.sig.write_end k

/-- Both states encode the same frame, since their payloads are the same. -/
theorem execEncFrame_agree : AgreeOutcome (exec .encFrame s) (exec .encFrame (s.withBuffers m)) := by
  refine .ite (fun _ => h.agree.raise _) fun _ => .ite (fun _ => h.agree.raise _) fun hfits => ?_
  have hlen : (s.plen + 3).toNat = (frameOf s.payload).length := by
    have hle : s.plen.toNat ≤ 32 := Nat.not_lt.mp hfits
    rw [length_frameOf, s.length_payload]
    bv_omega
  rw [h.payload_eq]
  exact Agree.complete ⟨h.pb, hlen ▸ sameBelow_writeList_zero _ _ _, h.db, h.rxb, h.sig, rfl⟩

theorem execTxPop_agree (henc : EncoderOk s) : AgreeOutcome (exec .txPop s) (exec .txPop (s.withBuffers m)) := by
  refine .ite (fun _ => h.agree.raise _) fun hne => .ite (fun _ => .fault _) fun _ => ?_
  have hlt : s.txpos.toNat < s.txlen.toNat :=
    Nat.lt_of_le_of_ne henc.1 fun heq => hne (BitVec.eq_of_toNat_eq heq)
  exact Agree.answer ⟨h.pb, h.txb, h.db, h.rxb, h.sig, rfl⟩ (congrArg Result.byte (h.txb _ hlt).symm)

theorem execDecFeed_agree (b : Byte) :
    AgreeOutcome (exec (.decFeed b) s) (exec (.decFeed b) (s.withBuffers m)) := by
  have hsame : ∀ ds de, Agree { s with dstate := ds, derr := de }
      { s.withBuffers m with dstate := ds, derr := de } := fun ds de => ⟨h.pb, h.txb, h.db, h.rxb, h.sig, rfl⟩
  cases hd : s.dstate with
  | waitHeader =>
    rw [exec_decFeed_waitHeader hd, exec_decFeed_waitHeader (s := s.withBuffers m) hd]
    exact .ite (fun _ => (hsame _ _).complete) fun _ => (hsame _ _).raise _
  | waitLength =>
    rw [exec_decFeed_waitLength hd, exec_decFeed_waitLength (s := s.withBuffers m) hd]
    exact .ite (fun _ => (hsame _ _).raise _) fun _ =>
      Agree.complete ⟨h.pb, h.txb, sameBelow_zero _ _, h.rxb, h.sig, rfl⟩
  | waitData =>
    rw [exec_decFeed_waitData hd, exec_decFeed_waitData (s := s.withBuffers m) hd]
    refine .ite (fun _ => .fault _) fun hcap => Agree.complete ⟨h.pb, h.txb, ?_, h.rxb, h.sig, rfl⟩
    have hroom : s.dcnt.toNat < 32 := Nat.not_le.mp hcap
    have hlen : (s.dcnt + 1).toNat = s.dcnt.toNat + 1 := toNat_add_one (by omega)
    exact hlen ▸ h.db.write_end b
  | waitCrc =>
    rw [exec_decFeed_waitCrc hd, exec_decFeed_waitCrc (s := s.withBuffers m) hd]
    exact .ite (fun _ => (hsame _ _).complete) fun _ => (hsame _ _).raise _
  | ready =>
    rw [exec_decFeed_ready hd, exec_decFeed_ready (s := s.withBuffers m) hd]
    exact h.agree.raise _
  | error =>
    rw [exec_decFeed_error hd, exec_decFeed_error (s := s.withBuffers m) hd]
    exact h.agree.raise _

/-- In READY the payload is the DCNT bytes received, so both states take the same bytes to RXB. -/
theorem execDecTake_agree (hdec : DecoderOk s) : AgreeOutcome (exec .decTake s) (exec .decTake (s.withBuffers m)) := by
  refine .ite (fun hready => .ite (fun _ => .fault _) fun _ => ?_) fun _ => h.agree.raise _
  obtain ⟨_, _, _, hcounts⟩ := hdec
  have hcnt : s.dcnt = s.dexp := (countsOk_ready hready).mp hcounts
  have hbytes : m.db.slice s.dexp.toNat = s.db.slice s.dexp.toNat := (hcnt ▸ h.db).slice_eq.symm
  show AgreeOutcome _ (State.complete (State.resetDecoder { s.withBuffers m with
    rxb := m.rxb.writeList 0 (m.db.slice s.dexp.toNat), rxlen := s.dexp }))
  rw [hbytes]
  refine Agree.complete ⟨h.pb, h.txb, sameBelow_zero _ _, ?_, h.sig, rfl⟩
  have hlen := sameBelow_writeList_zero s.rxb m.rxb (s.db.slice s.dexp.toNat)
  rwa [Memory.length_slice] at hlen

theorem execVqPop_agree : AgreeOutcome (exec .vqPop s) (exec .vqPop (s.withBuffers m)) := by
  cases hfe : s.feState with
  | fatal =>
    rw [exec_gated_halted hfe rfl, exec_gated_halted (s := s.withBuffers m) hfe rfl]
    exact h.agree.raise _
  | idle =>
    cases hq : s.vqo with
    | nil =>
      rw [exec_vqPop_empty hfe hq, exec_vqPop_empty (s := s.withBuffers m) hfe hq]
      exact h.agree.raise _
    | cons v vs =>
      rw [exec_vqPop_head hfe hq, exec_vqPop_head (s := s.withBuffers m) hfe hq]
      exact Agree.answer ⟨h.pb, h.txb, h.db, h.rxb, h.sig, rfl⟩ rfl

/-! ### Runs -/

/-- A field of a run reads VQI, PLEN and the bytes received, and writes no buffer. -/
theorem fieldStep_withRun_agree (r : Run) (p : PackStep) (u : UnpackStep) :
    AgreeOutcome (fieldStep p u (withRun s r)) (fieldStep p u (withRun (s.withBuffers m) r)) := by
  cases hmode : r.mode with
  | pack =>
    cases hv : s.vqi[r.idx]? with
    | none =>
      have hv' : (s.withBuffers m).vqi[r.idx]? = none := hv
      simp only [fieldStep, withRun, hmode, hv, hv']
      exact .fault _
    | some v =>
      cases hnext : r.packNext s.plen.toNat p v with
      | ok r' =>
        rw [fieldStep_pack_of_ok hmode hv hnext, fieldStep_pack_of_ok (s := s.withBuffers m) hmode hv hnext]
        exact .next ⟨h.pb, h.txb, h.db, h.rxb, h.sig, rfl⟩
      | error e =>
        rw [fieldStep_pack_of_error hmode hv hnext, fieldStep_pack_of_error (s := s.withBuffers m) hmode hv hnext]
        exact .next ⟨h.pb, h.txb, h.db, h.rxb, h.sig, rfl⟩
  | unpack =>
    cases hnext : r.unpackNext s.received u with
    | ok r' =>
      have hnext' : r.unpackNext (s.withBuffers m).received u = .ok r' := h.received_eq ▸ hnext
      rw [fieldStep_unpack_of_ok hmode hnext, fieldStep_unpack_of_ok hmode hnext']
      exact .next ⟨h.pb, h.txb, h.db, h.rxb, h.sig, rfl⟩
    | error e =>
      have hnext' : r.unpackNext (s.withBuffers m).received u = .error e := h.received_eq ▸ hnext
      rw [fieldStep_unpack_of_error hmode hnext, fieldStep_unpack_of_error hmode hnext']
      exact .next ⟨h.pb, h.txb, h.db, h.rxb, h.sig, rfl⟩

theorem commitRun_agree (r : Run) : AgreeOutcome (commitRun r s) (commitRun r (s.withBuffers m)) := by
  unfold commitRun
  split
  · refine .ite (fun _ => .fault _) fun hfits => Agree.complete ⟨?_, h.txb, h.db, h.rxb, h.sig, rfl⟩
    have hlen : (BitVec.ofNat 8 (s.plen.toNat + r.out.length)).toNat = s.plen.toNat + r.out.length :=
      toNat_ofNat_byte (Nat.not_lt.mp hfits)
    have hbytes := h.pb.writeList_end r.out
    rwa [← hlen] at hbytes
  · exact Agree.complete ⟨h.pb, h.txb, h.db, h.rxb, h.sig, rfl⟩

theorem haltEngine_agree (e : Status) (i : Nat) :
    AgreeOutcome (haltEngine e i s) (haltEngine e i (s.withBuffers m)) :=
  Agree.raise ⟨h.pb, h.txb, h.db, h.rxb, h.sig, rfl⟩ e

theorem microStep_agree {r : Run} (hrun : s.run = some r) :
    AgreeOutcome (microStep r s) (microStep r (s.withBuffers m)) := by
  refine .ite (fun hidx => .ite (fun _ => .fault _) fun _ => ?_) fun _ => commitRun_agree h r
  show AgreeOutcome _ (execEntry (m.sig.read r.idx) r.idx (s.withBuffers m))
  rw [← h.sig r.idx hidx]
  cases hk : decodeKind (s.sig.read r.idx) with
  | none =>
    rw [execEntry_unknown hk, execEntry_unknown hk]
    exact haltEngine_agree h _ _
  | some i =>
    rw [execEntry_eq_exec hk, execEntry_eq_exec hk, exec_eq_fieldStep_of_code hk, exec_eq_fieldStep_of_code hk,
      ← withRun_eq_self hrun]
    exact fieldStep_withRun_agree h r _ _

end

theorem finishRun_agree (n : Nat) (h : Agree s t) : AgreeOutcome (finishRun n s) (finishRun n t) := by
  induction n generalizing s t with
  | zero => exact .next h
  | succ n ih =>
    obtain ⟨m, hm, rfl⟩ := agree_iff.mp h
    cases hrun : s.run with
    | none =>
      rw [finishRun_none hrun, finishRun_none (s := s.withBuffers m) hrun]
      exact .next h
    | some r =>
      have hstep := microStep_agree hm hrun
      rw [finishRun_some hrun, finishRun_some (s := s.withBuffers m) hrun]
      generalize microStep r s = o at hstep
      generalize microStep r (s.withBuffers m) = o' at hstep
      cases hstep with
      | next hnext => exact ih hnext
      | fault f => exact .fault f
      | refused f => exact .refused f

section
variable {m : Buffers} (h : SameVisible s m)
include h

theorem runAll_agree (mode : RunMode) : AgreeOutcome (runAll mode s) (runAll mode (s.withBuffers m)) :=
  finishRun_agree (s := s.beginRun mode) (t := (s.withBuffers m).beginRun mode) _
    ⟨h.pb, h.txb, h.db, h.rxb, h.sig, rfl⟩

theorem validated_agree {a a' : Host.Outcome State Fault Refusal} (ha : AgreeOutcome a a') :
    AgreeOutcome (validated s a) (validated (s.withBuffers m) a') := by
  refine h.feGate (.ite (fun _ => .fault _) fun _ => ?_)
  rw [h.signature_eq]
  split
  · exact haltEngine_agree h _ _
  · exact ha

theorem execPack_agree : AgreeOutcome (exec .pack s) (exec .pack (s.withBuffers m)) :=
  validated_agree h (.ite (fun _ => runAll_agree h _) fun _ => Agree.raise ⟨h.pb, h.txb, h.db, h.rxb, h.sig, rfl⟩ _)

/-! ### One step -/

theorem exec_agree {i : Instr} (hi : i.isCommand = true) (henc : EncoderOk s) (hdec : DecoderOk s) :
    AgreeOutcome (exec i s) (exec i (s.withBuffers m)) := by
  cases i with
  | u8 | i16 | u16 | i32 | u32 | f32 | cstr | blob => cases hi
  | nop => exact h.agree.complete
  | reset => exact Agree.complete ⟨sameBelow_zero _ _, sameBelow_zero _ _, sameBelow_zero _ _, sameBelow_zero _ _,
      sameBelow_zero _ _, rfl⟩
  | regRd r => exact execRegRd_agree h r
  | crcClr | crcUpd => exact Agree.complete ⟨h.pb, h.txb, h.db, h.rxb, h.sig, rfl⟩
  | crcRd => exact h.agree.answer rfl
  | pbClr => exact Agree.complete ⟨sameBelow_zero _ _, h.txb, h.db, h.rxb, h.sig, rfl⟩
  | pbApp b => exact execPbApp_agree h b
  | pbRd i => exact execPbRd_agree h i
  | encFrame => exact execEncFrame_agree h
  | txPop => exact execTxPop_agree h henc
  | decRst => exact Agree.complete ⟨h.pb, h.txb, sameBelow_zero _ _, h.rxb, h.sig, rfl⟩
  | decFeed b => exact execDecFeed_agree h b
  | decTake => exact execDecTake_agree h hdec
  | rxClr => exact Agree.complete ⟨h.pb, h.txb, h.db, sameBelow_zero _ _, h.sig, rfl⟩
  | rxApp b => exact execRxApp_agree h b
  | rxRd i => exact execRxRd_agree h i
  | feRst => exact Agree.complete ⟨h.pb, h.txb, h.db, h.rxb, sameBelow_zero _ _, rfl⟩
  | sigClr => exact h.feGate (Agree.complete ⟨h.pb, h.txb, h.db, h.rxb, sameBelow_zero _ _, rfl⟩)
  | sigApp k => exact execSigApp_agree h k
  | vqPushw | vqPushb =>
    exact h.feGate (.ite (fun _ => h.agree.raise _) fun _ => Agree.complete ⟨h.pb, h.txb, h.db, h.rxb, h.sig, rfl⟩)
  | vqiClr => exact h.feGate (Agree.complete ⟨h.pb, h.txb, h.db, h.rxb, h.sig, rfl⟩)
  | pack => exact execPack_agree h
  | unpack => exact validated_agree h (runAll_agree h _)
  | vqPop => exact execVqPop_agree h

theorem step_agree (henc : EncoderOk s) (hdec : DecoderOk s) : AgreeOutcome (step s) (step (s.withBuffers m)) := by
  cases hrun : s.run with
  | some r =>
    rw [step_run hrun, step_run (s := s.withBuffers m) hrun]
    exact microStep_agree h hrun
  | none =>
    cases hd : decode s.inp with
    | command i rest =>
      rw [step_command hrun hd, step_command (s := s.withBuffers m) hrun hd]
      exact exec_agree (s := { s with inp := rest }) ⟨h.pb, h.txb, h.db, h.rxb, h.sig⟩
        (commandBytesAreUnique _ _ _ hd).1 henc hdec
    | unassigned c rest =>
      rw [step_unassigned hrun hd, step_unassigned (s := s.withBuffers m) hrun hd]
      exact Agree.raise ⟨h.pb, h.txb, h.db, h.rxb, h.sig, rfl⟩ _
    | incomplete =>
      rw [step_incomplete hrun hd, step_incomplete (s := s.withBuffers m) hrun hd]
      exact .next h.agree

end

theorem Agree.out_eq (h : Agree s t) : s.out = t.out := by
  obtain ⟨m, _, rfl⟩ := agree_iff.mp h
  rfl

/-- Settles O55: what a command or a field of a run reads of a buffer lies below its valid length. -/
theorem hiddenBytesAreUnobservable : Obligations.HiddenBytesAreUnobservable := by
  intro s t hs _ hagree
  obtain ⟨m, hm, rfl⟩ := agree_iff.mp hagree
  obtain ⟨s', hs'⟩ := stepNeverStops s hs
  have hstep : AgreeOutcome (step s) (step (s.withBuffers m)) := step_agree hm hs.encoder hs.decoder
  rw [hs'] at hstep
  generalize ht' : step (s.withBuffers m) = o at hstep
  cases hstep with
  | next hnext => exact ⟨s', _, hs', rfl, hnext, hnext.out_eq⟩

end

end Sys2Proof.Machine

/-! Settles O47, O50, O58, O59 and O60: what every command answers, fails with and stops at (60_exceptions.md sections 1
and 2, 70_reset_and_hazards.md section 1). -/

namespace Sys2Proof.Machine

open Sys2Proof.Reference

/-- Settles O58: a completed command leaves one response at the port. -/
theorem oneResponsePerCommand : Obligations.OneResponsePerCommand := by
  intro s t i hi hrun ht
  obtain ⟨hend, hinp, hresponse⟩ := exec_completes hi hrun t ht
  exact ⟨hend, hinp, hresponse⟩

/-! ### What a failing command changes -/

/-- The index that FE_ERRIDX takes when the instruction `i` fails with `e` (60_exceptions.md R260). -/
def FailureIndex (s : State) (i : Instr) (e : Status) (idx : Nat) : Prop :=
  (e = .valueCountMismatch → idx = min s.vqi.length s.siglen.toNat) ∧
  (i = .pack ∨ i = .unpack → e ≠ .feHalted → e ≠ .valueCountMismatch → idx < s.siglen.toNat)

/-- `t` is an end of the instruction `i` from `s`: an OK, or one of the failures that the status table lists for it, with
exactly the changes of that row. -/
def ListedEnd (s : State) (i : Instr) (t : State) : Prop :=
  (∃ r, t.out = s.out ++ [{ status := .ok, result := r }]) ∨
  ∃ e idx, e ∈ failures i ∧ FailureIndex s i e idx ∧
    t = { failureEffect s i idx e with out := s.out ++ [failed e] }

/-- If `o` answers a next state at all, it is a listed end. -/
def EndsAsListed (s : State) (i : Instr) (o : Host.Outcome State Fault Refusal) : Prop :=
  ∀ t, o = .next t → ListedEnd s i t

section
variable {s u : State} {i : Instr} {e : Status}

theorem endsAsListed_ok (hout : u.out = s.out) (r : Result) : EndsAsListed s i (.next (u.respond .ok r)) := by
  intro t ht
  cases ht
  exact .inl ⟨r, by rw [State.respond_out, hout]⟩

theorem endsAsListed_complete (hout : u.out = s.out) : EndsAsListed s i u.complete :=
  endsAsListed_ok hout _

theorem endsAsListed_answer {r : Result} (hout : u.out = s.out) : EndsAsListed s i (u.answer r) :=
  endsAsListed_ok hout r

theorem endsAsListed_fault (f : Fault) : EndsAsListed s i (.fault f) := by
  intro t ht
  cases ht

theorem endsAsListed_ite {c : Prop} [Decidable c] {a b : Host.Outcome State Fault Refusal} (ha : EndsAsListed s i a)
    (hb : EndsAsListed s i b) : EndsAsListed s i (if c then a else b) := by
  split
  · exact ha
  · exact hb

theorem failureIndex_of_noRun (hpack : i ≠ .pack) (hunpack : i ≠ .unpack) (he : e ≠ .valueCountMismatch) :
    FailureIndex s i e 0 :=
  ⟨fun h => absurd h he, fun h => absurd h (not_or.mpr ⟨hpack, hunpack⟩)⟩

theorem endsAsListed_failure {u : State} (he : e ∈ failures i) (hidx : FailureIndex s i e 0)
    (hu : u = failureEffect s i 0 e) (hout : u.out = s.out) : EndsAsListed s i (u.raise e) := by
  intro t ht
  rw [State.raise_eq_next.mp ht]
  refine .inr ⟨e, 0, he, hidx, ?_⟩
  rw [← hu, ← hout]
  rfl

/-- A refusal outside a run: the status is listed, and it changes nothing. -/
theorem endsAsListed_refusal (hpack : i ≠ .pack) (hunpack : i ≠ .unpack) (hcount : e ≠ .valueCountMismatch)
    (he : e ∈ failures i) (heffect : failureEffect s i 0 e = s) : EndsAsListed s i (s.raise e) :=
  endsAsListed_failure he (failureIndex_of_noRun hpack hunpack hcount) heffect.symm rfl

theorem endsAsListed_feGate {body : Host.Outcome State Fault Refusal} (he : .feHalted ∈ failures i)
    (h : EndsAsListed s i body) : EndsAsListed s i (feGate s body) :=
  endsAsListed_ite (endsAsListed_failure he ⟨nofun, fun _ h => absurd rfl h⟩ rfl rfl) h

theorem Status.isFatal_iff : e.isFatal = true ↔ e = .unknownFieldKind ∨ e = .malformedSignature := by
  cases e <;> decide

theorem halted_eq_failureEffect (hrun : s.run = none) (he : e.isFatal = true) (idx : Nat) :
    halted s e idx = { failureEffect s i idx e with out := s.out ++ [failed e] } := by
  rcases Status.isFatal_iff.mp he with rfl | rfl <;> rw [halted, ← hrun] <;> rfl

/-- PACK's failures are those of its ends. -/
theorem listedEnd_of_packEnds (hrun : s.run = none) (hends : PackEnds s u) : ListedEnd s .pack u := by
  cases hends with
  | refused => exact .inr ⟨.feHalted, 0, by decide, ⟨nofun, fun _ h => absurd rfl h⟩, rfl⟩
  | invalid _ hfail =>
    obtain ⟨hfatal, hidx⟩ := firstFailure_eq_some hfail
    refine .inr ⟨_, _, ?_, ⟨?_, fun _ _ _ => hidx⟩, halted_eq_failureEffect hrun hfatal _⟩
    · rcases Status.isFatal_iff.mp hfatal with rfl | rfl <;> decide
    · rintro rfl; cases hfatal
  | miscounted =>
    refine .inr ⟨.valueCountMismatch, _, by decide, ⟨fun _ => rfl, fun _ _ h => absurd rfl h⟩, ?_⟩
    rw [packFailed, ← hrun]
    rfl
  | @abandoned idx e _ hcount hfields =>
    obtain ⟨hstatus, hidx⟩ := packLoop_error hfields
    simp only [List.length_zip, State.length_signature, hcount, Nat.min_self, Nat.zero_add] at hidx
    refine .inr ⟨e, idx, ?_, ⟨?_, fun _ _ _ => hidx⟩, ?_⟩
    · rcases hstatus with rfl | rfl | rfl <;> decide
    · rintro rfl; rcases hstatus with h | h | h <;> cases h
    · rw [packFailed, ← hrun]
      rcases hstatus with rfl | rfl | rfl <;> rfl
  | committed => exact .inl ⟨.none, rfl⟩

theorem listedEnd_of_unpackEnds (hrun : s.run = none) (hends : UnpackEnds s u) : ListedEnd s .unpack u := by
  cases hends with
  | refused => exact .inr ⟨.feHalted, 0, by decide, ⟨nofun, fun _ h => absurd rfl h⟩, rfl⟩
  | invalid _ hfail =>
    obtain ⟨hfatal, hidx⟩ := firstFailure_eq_some hfail
    refine .inr ⟨_, _, ?_, ⟨?_, fun _ _ _ => hidx⟩, halted_eq_failureEffect hrun hfatal _⟩
    · rcases Status.isFatal_iff.mp hfatal with rfl | rfl <;> decide
    · rintro rfl; cases hfatal
  | abandoned _ hfields =>
    obtain ⟨rfl, hidx⟩ := unpackLoop_error hfields
    rw [State.length_signature, Nat.zero_add] at hidx
    refine .inr ⟨.shortBuffer, _, by decide, ⟨nofun, fun _ _ _ => hidx⟩, ?_⟩
    rw [unpackFailed, ← hrun]
    rfl
  | committed => exact .inl ⟨.none, rfl⟩

theorem listedEnd_of_feedEnds {b : Byte} (hends : FeedEnds b s u) : ListedEnd s (.decFeed b) u := by
  have hidx : ∀ e, e ≠ .valueCountMismatch → FailureIndex s (.decFeed b) e 0 := fun _ =>
    failureIndex_of_noRun nofun nofun
  cases hends with
  | started | sized | stored | checked => exact .inl ⟨.none, rfl⟩
  | badHeader => exact .inr ⟨.invalidHeader, 0, by simp [failures], hidx _ nofun, rfl⟩
  | tooLong => exact .inr ⟨.payloadTooLarge, 0, by simp [failures], hidx _ nofun, rfl⟩
  | badCrc => exact .inr ⟨.checksumMismatch, 0, by simp [failures], hidx _ nofun, rfl⟩
  | full => exact .inr ⟨.decoderFull, 0, by simp [failures], hidx _ nofun, rfl⟩
  | refused => exact .inr ⟨.decoderHalted, 0, by simp [failures], hidx _ nofun, rfl⟩

theorem execRegRd_endsAsListed (r : Byte) : EndsAsListed s (.regRd r) (execRegRd r s) := by
  unfold execRegRd
  split
  · exact endsAsListed_answer rfl
  · exact endsAsListed_refusal nofun nofun nofun (List.mem_singleton_self _) rfl

theorem execVqPop_endsAsListed : EndsAsListed s .vqPop (execVqPop s) := by
  refine endsAsListed_feGate (by decide) ?_
  split
  · exact endsAsListed_refusal nofun nofun nofun (by decide) rfl
  · exact endsAsListed_answer rfl

theorem exec_endsAsListed (hi : i.isFieldKind = false) (hrun : s.run = none) : EndsAsListed s i (exec i s) := by
  cases i with
  | u8 | i16 | u16 | i32 | u32 | f32 | cstr | blob => cases hi
  | nop | reset | crcClr | crcUpd | pbClr | decRst | rxClr | feRst => exact endsAsListed_complete rfl
  | crcRd => exact endsAsListed_answer rfl
  | regRd r => exact execRegRd_endsAsListed r
  | pbApp | rxApp =>
    exact endsAsListed_ite (endsAsListed_refusal nofun nofun nofun (List.mem_singleton_self _) rfl)
      (endsAsListed_complete rfl)
  | pbRd | rxRd =>
    exact endsAsListed_ite (endsAsListed_refusal nofun nofun nofun (List.mem_singleton_self _) rfl)
      (endsAsListed_answer rfl)
  | encFrame =>
    exact endsAsListed_ite (endsAsListed_refusal nofun nofun nofun (by decide) rfl)
      (endsAsListed_ite (endsAsListed_refusal nofun nofun nofun (by decide) rfl) (endsAsListed_complete rfl))
  | txPop =>
    exact endsAsListed_ite (endsAsListed_refusal nofun nofun nofun (by decide) rfl)
      (endsAsListed_ite (endsAsListed_fault _) (endsAsListed_answer rfl))
  | decFeed b => exact fun t ht => listedEnd_of_feedEnds (feedEnds_of_next ht)
  | decTake =>
    exact endsAsListed_ite (endsAsListed_ite (endsAsListed_fault _) (endsAsListed_complete rfl))
      (endsAsListed_refusal nofun nofun nofun (by decide) rfl)
  | sigClr | vqiClr => exact endsAsListed_feGate (by decide) (endsAsListed_complete rfl)
  | sigApp k =>
    exact endsAsListed_feGate (List.mem_cons_self ..)
      (endsAsListed_ite (endsAsListed_refusal nofun nofun nofun (by simp [failures]) rfl)
        (endsAsListed_ite (endsAsListed_fault _) (endsAsListed_complete rfl)))
  | vqPushw | vqPushb =>
    exact endsAsListed_feGate (List.mem_cons_self ..)
      (endsAsListed_ite (endsAsListed_refusal nofun nofun nofun (by simp [failures]) rfl) (endsAsListed_complete rfl))
  | vqPop => exact execVqPop_endsAsListed
  | pack => exact fun t ht => listedEnd_of_packEnds hrun (packEnds_of_next ht)
  | unpack => exact fun t ht => listedEnd_of_unpackEnds hrun (unpackEnds_of_next ht)

end

/-- Settles O59: the response's status tells which listed end it was. -/
theorem failedCommandChangesOnlyListed : Obligations.FailedCommandChangesOnlyListed := by
  intro s t i e hi hrun ht hout hne
  rcases exec_endsAsListed hi hrun t ht with ⟨r, hok⟩ | ⟨e', idx, hmem, ⟨hcount, hindex⟩, heq⟩
  · have hstatus : failed e = { status := .ok, result := r } := by simpa using hout.symm.trans hok
    exact absurd (congrArg Response.status hstatus) hne
  · have hout' : t.out = s.out ++ [failed e'] := heq ▸ rfl
    have hsame : failed e = failed e' := by simpa using hout.symm.trans hout'
    obtain rfl : e = e' := congrArg Response.status hsame
    exact ⟨hmem, idx, hcount, hindex, heq⟩

/-! ### Where the model stops -/

theorem fieldStep_outsideRun {s : State} (hrun : s.run = none) (p : PackStep) (u : UnpackStep) :
    fieldStep p u s = .refused .fieldKindOutsideRun := by
  rw [fieldStep, hrun]

theorem validated_noEntry {s : State} (hidle : s.feState = .idle) (hcap : 32 < s.siglen.toNat)
    (body : Host.Outcome State Fault Refusal) : validated s body = .fault .noSuchEntry :=
  (feGate_idle hidle _).trans (if_pos hcap)

/-- Settles O60: the check that stands before each access. -/
theorem stopsOutsideLegalStates : Obligations.StopsOutsideLegalStates := by
  intro s
  refine ⟨fun i hi hrun => ?fieldKind, fun hne hcap => (if_neg hne).trans (if_pos hcap),
    fun hd hcap b => exec_decFeed_noEntry hd hcap, fun hd hexp => (if_pos hd).trans (if_pos hexp),
    fun hidle hcap => ⟨fun k => ?sigApp, validated_noEntry hidle hcap _, validated_noEntry hidle hcap _⟩⟩
  case fieldKind =>
    obtain ⟨k, hk⟩ := exists_decodeKind_of_isFieldKind hi
    rw [exec_eq_fieldStep_of_code hk, fieldStep_outsideRun hrun]
  case sigApp => exact (feGate_idle hidle _).trans ((if_neg hcap.ne').trans (if_pos hcap))

/-! ### NOP and RESET -/

/-- Settles O47: NOP answers OK; RESET writes the reset values. -/
theorem nopAndReset : Obligations.NopAndReset :=
  fun _ => ⟨rfl, _, rfl, rfl⟩

/-- After reset every register is 0, STATUS included. -/
theorem registerList_reset : registerList State.reset = List.replicate 0x13 0 := by
  rw [registerList_eq_words]
  rfl

/-- Settles O50: the reset values, and each of the 19 register numbers. -/
theorem resetStateRegisters : Obligations.ResetStateRegisters := by
  refine ⟨fun t ht => ?values, fun r hr => ⟨_, exec_regRd_register ?read, rfl⟩⟩
  case values =>
    rcases ht with rfl | ⟨s, hs⟩
    · exact ⟨rfl, rfl, rfl, rfl, rfl, rfl, rfl, rfl, rfl, rfl, rfl, rfl, rfl, rfl, rfl, rfl, rfl, rfl⟩
    · cases hs
      exact ⟨rfl, rfl, rfl, rfl, rfl, rfl, rfl, rfl, rfl, rfl, rfl, rfl, rfl, rfl, rfl, rfl, rfl, rfl⟩
  case read =>
    rw [State.register_eq_getElem?, registerList_reset, List.getElem?_replicate, if_pos (Nat.lt_succ_of_le hr)]

end Sys2Proof.Machine

/-! Settles O5, O33, O35, O38, O39 and O46: runs and their steps (43_field_engine.md section 2). -/

namespace Sys2Proof.Machine

open Sys2Proof.Reference

/-- Settles O5: the step's index check, and the entry's code. -/
theorem stepExecutesSignatureEntry : Obligations.StepExecutesSignatureEntry := by
  intro s r hrun
  rw [step_run hrun]
  refine ⟨fun i hidx hcap hk => ?entry, fun hdone => if_neg (Nat.not_lt.mpr hdone)⟩
  have hbelow : ¬ Config.sigCap ≤ r.idx := Nat.not_le.mpr hcap
  rw [microStep, if_pos hidx, if_neg hbelow, execEntry_eq_exec hk]

/-! ### A run and its steps -/

theorem runSteps_of_waiting {s : State} (hrun : s.run = none) (hinp : s.inp = []) (n : Nat) :
    runSteps n s = .next s := by
  induction n with
  | zero => rfl
  | succ n ih =>
    have hwait : step s = .next s := step_incomplete hrun (hinp ▸ rfl)
    rw [runSteps_succ_of_step hwait, ih]

theorem coreRun_succ_of_fault {M : Host.Core} {s : M.State} {f : M.Fault} (h : M.step s = .fault f) (n : Nat) :
    M.run (n + 1) s = .fault f := by
  rw [Host.Core.run, h]

theorem coreRun_succ_of_refused {M : Host.Core} {s : M.State} {f : M.Refusal} (h : M.step s = .refused f) (n : Nat) :
    M.run (n + 1) s = .refused f := by
  rw [Host.Core.run, h]

/-- With nothing waiting at the port, the machine's steps are the steps of the run in progress, and after it waits. -/
theorem runSteps_eq_finishRun (n : Nat) {s : State} (hinp : s.inp = []) : runSteps n s = finishRun n s := by
  induction n generalizing s with
  | zero => rfl
  | succ n ih =>
    cases hrun : s.run with
    | none => rw [runSteps_of_waiting hrun hinp, finishRun_none hrun]
    | some r =>
      rw [finishRun_some hrun]
      have hstep : step s = microStep r s := step_run hrun
      cases hmicro : microStep r s with
      | fault f => exact coreRun_succ_of_fault (M := core) (hstep.trans hmicro) n
      | refused f => exact coreRun_succ_of_refused (M := core) (hstep.trans hmicro) n
      | next t =>
        rw [runSteps_succ_of_step (hstep.trans hmicro)]
        refine ih ?_
        rcases microStep_movesOn_or_completed hrun hmicro with ⟨_, hmoves⟩ | hends
        · exact hmoves.inp.trans hinp
        · exact hends.inp.trans hinp

/-- Settles O38: after gate, validation and count, the command is the run's steps. -/
theorem runIsItsMicrosteps : Obligations.RunIsItsMicrosteps := by
  intro s hidle hcap hvalid hinp
  have hv : firstFailure s = none := validate_signature s ▸ hvalid
  have hsteps : ∀ mode, runSteps (s.siglen.toNat + 1) (s.beginRun mode) = runAll mode s :=
    fun mode => runSteps_eq_finishRun _ hinp
  refine ⟨fun hcount => ?pack, ?unpack⟩
  case pack => exact (hsteps .pack).trans ((validated_of_valid hidle hcap hv _).trans (if_pos hcount)).symm
  case unpack => exact (hsteps .unpack).trans (validated_of_valid hidle hcap hv _).symm

/-! ### A run that commits -/

/-- Settles O33: PB is written from PLEN on, so the payload grows by the packed bytes. -/
theorem packCommitsEveryField : Obligations.PackCommitsEveryField := by
  intro s out last hidle hcap hv hcount hfields
  refine ⟨packCommitted s out last, ?commits, ?payload, packed_of_packFields hfields⟩
  case commits => rw [exec_pack_of_fields hidle hcap hv hcount, hfields]; rfl
  case payload =>
    obtain ⟨_, _, hplen, _⟩ := packed_of_packFields hfields
    rw [State.payload, hplen]
    exact Memory.slice_writeList_end out s.pb s.plen.toNat

/-- Settles O35: the loop appends one value per field and keeps its cursor within RXB. -/
theorem unpackCommitsEveryField : Obligations.UnpackCommitsEveryField := by
  intro s res cur last hidle hcap hv hfields
  refine ⟨unpackCommitted s res cur last, ?commits, ?count, ?cursor, unpacked_of_unpackFields hfields⟩
  case commits => rw [exec_unpack_of_fields hidle hcap hv, hfields]; rfl
  case count =>
    have hlen : res.length = s.siglen.toNat := by simpa using unpackLoop_length hfields
    exact hlen
  case cursor => exact s.length_received ▸ unpackLoop_cursor_le hfields (Nat.zero_le _)

/-! ### A field without room -/

/-- Settles O46: the room check follows the pack step. -/
theorem packFieldWithoutRoom : Obligations.PackFieldWithoutRoom := by
  intro s r i k v bytes last hrun hmode hcode hkind hval hp hfull
  obtain ⟨k', hcode', _, hk⟩ := fieldKindCodesReadBack.1 i hkind
  obtain rfl : k = k' := List.singleton_injective (hcode.symm.trans hcode')
  have hfull' : Config.pbCap < s.plen.toNat + r.out.length + bytes.length := hfull
  have hnext : r.packNext s.plen.toNat (packField k) v = .error .bufferFull := by
    simp only [Run.packNext, hp, if_pos hfull']
  rw [exec_eq_fieldStep_of_code hk, ← withRun_eq_self hrun]
  exact fieldStep_pack_of_error hmode hval hnext

/-! ### LAST_U8 of an earlier run -/

theorem firstFailure_ne_ok {s : State} {i : Nat} {e : Status} (h : firstFailure s = some (i, e)) : e ≠ .ok := by
  rintro rfl
  cases (firstFailure_eq_some h).1

theorem packFields_error_ne_ok {s : State} {i : Nat} {e : Status} (h : packFields s = .error (e, i)) : e ≠ .ok := by
  rintro rfl
  rcases (packLoop_error h).1 with h | h | h <;> cases h

theorem unpackFields_error_ne_ok {s : State} {i : Nat} {e : Status} (h : unpackFields s = .error (e, i)) :
    e ≠ .ok := by
  rintro rfl
  cases (unpackLoop_error h).1

/-- The ends `t` and `t'` of a run from two states that differ in LAST_U8 differ in LAST_U8 only, and not at all when the
run of the idle engine `s` has committed. -/
def SameButLastU8 (s t t' : State) : Prop :=
  t' = { t with lastU8 := t'.lastU8 } ∧ (s.feState = .idle → t.feErr = .ok → t' = t)

section
variable {s : State} (x : Byte)

/-- The gate and the validation do not read LAST_U8. -/
theorem validated_lastU8 (hcap : s.siglen.toNat ≤ 32) {body body' : Host.Outcome State Fault Refusal}
    (hbody : s.feState = .idle → firstFailure s = none →
      ∃ t t', body = .next t ∧ body' = .next t' ∧ SameButLastU8 s t t') :
    ∃ t t', validated s body = .next t ∧ validated { s with lastU8 := x } body' = .next t' ∧
      SameButLastU8 s t t' := by
  by_cases hfatal : s.feState = .fatal
  · refine ⟨s.respond .feHalted .none, _, feGate_fatal hfatal _, feGate_fatal (s := { s with lastU8 := x }) hfatal _,
      rfl, fun hidle => ?_⟩
    cases hfatal.symm.trans hidle
  have hidle := FeState.eq_idle_of_ne_fatal hfatal
  cases hv : firstFailure s with
  | some failure =>
    exact ⟨halted s failure.2 failure.1, _, validated_of_failure hidle hcap hv _,
      validated_of_failure (s := { s with lastU8 := x }) hidle hcap hv _, rfl,
      fun _ herr => absurd herr (firstFailure_ne_ok hv)⟩
  | none =>
    obtain ⟨t, t', ht, ht', hsame⟩ := hbody hidle hv
    exact ⟨t, t', (validated_of_valid hidle hcap hv _).trans ht,
      (validated_of_valid (s := { s with lastU8 := x }) hidle hcap hv _).trans ht', hsame⟩

theorem packEnd_lastU8 (s : State) :
    SameButLastU8 s (packEnd s (packFields s)) (packEnd { s with lastU8 := x } (packFields s)) := by
  cases hfields : packFields s with
  | error failure => exact ⟨rfl, fun _ herr => absurd herr (packFields_error_ne_ok hfields)⟩
  | ok packed => exact ⟨rfl, fun _ _ => rfl⟩

theorem unpackEnd_lastU8 (s : State) :
    SameButLastU8 s (unpackEnd s (unpackFields s)) (unpackEnd { s with lastU8 := x } (unpackFields s)) := by
  cases hfields : unpackFields s with
  | error failure => exact ⟨rfl, fun _ herr => absurd herr (unpackFields_error_ne_ok hfields)⟩
  | ok unpacked => exact ⟨rfl, fun _ _ => rfl⟩

end

/-- Settles O39: every end of a run is a function of the state without LAST_U8. -/
theorem earlierLastU8HasNoEffect : Obligations.EarlierLastU8HasNoEffect := by
  intro s x hcap
  refine ⟨validated_lastU8 x hcap fun hidle hv => ?pack, validated_lastU8 x hcap fun hidle hv => ?unpack⟩
  case pack =>
    by_cases hcount : s.vqi.length = s.siglen.toNat
    · have hend := exec_pack_of_fields hidle hcap hv hcount
      have hend' := exec_pack_of_fields (s := { s with lastU8 := x }) hidle hcap hv hcount
      exact ⟨_, _, (validated_of_valid hidle hcap hv _).symm.trans hend,
        (validated_of_valid (s := { s with lastU8 := x }) hidle hcap hv _).symm.trans hend', packEnd_lastU8 x s⟩
    · exact ⟨packFailed s .valueCountMismatch _, _, if_neg hcount, if_neg hcount, rfl, fun _ herr => nomatch herr⟩
  case unpack =>
    have hend := exec_unpack_of_fields hidle hcap hv
    have hend' := exec_unpack_of_fields (s := { s with lastU8 := x }) hidle hcap hv
    exact ⟨_, _, (validated_of_valid hidle hcap hv _).symm.trans hend,
      (validated_of_valid (s := { s with lastU8 := x }) hidle hcap hv _).symm.trans hend', unpackEnd_lastU8 x s⟩

end Sys2Proof.Machine

/-! Settles O10 and O11: the checksum and the CRC unit (40_crc.md). -/

namespace Sys2Proof.Machine

open Sys2Proof.Reference

/-! ### The laws of the checksum -/

/-- Bit 0 of a byte is its parity, so the model's shift is the rule's. -/
theorem crcShift_eq_crcStep : crcShift = crcStep := by
  funext c
  have hbit : c.getLsbD 0 = decide (c.toNat % 2 = 1) := Nat.testBit_zero _
  rw [crcShift, crcStep, hbit]
  by_cases hodd : c.toNat % 2 = 1
  · rw [if_pos hodd, if_pos (decide_eq_true hodd)]
    rfl
  · rw [if_neg hodd, if_neg (by rwa [decide_eq_true_eq])]
    exact BitVec.xor_zero

theorem crcTable_eq_iterate (i : Byte) : crcTable i = crcStep^[8] i := by
  rw [crcTable, crcShift_eq_crcStep]
  rfl

theorem printedTable_eq : printedTable = (List.range 256).map fun i => crcTable (BitVec.ofNat 8 i) := by
  decide +kernel

theorem length_printedTable : printedTable.length = 256 := by
  rw [printedTable_eq, List.length_map, List.length_range]

theorem getElem?_printedTable (i : Byte) : printedTable[i.toNat]? = some (crcTable i) := by
  rw [printedTable_eq, List.getElem?_map, List.getElem?_range i.isLt, Option.map_some, BitVec.ofNat_toNat,
    BitVec.setWidth_eq]

theorem crc8_replicate_zero (n : Nat) : crc8 (List.replicate n 0x00) = 0x00 := by
  induction n with
  | zero => rfl
  | succ n ih =>
    rw [List.replicate_succ', crc8_append_singleton, ih]
    decide

/-- A list followed by its checksum leaves the register at 0. -/
theorem crc8_residue (p : List Byte) : crc8 (p ++ [crc8 p]) = 0x00 := by
  rw [crc8_append_singleton, crcUpdate, BitVec.xor_self]
  decide

theorem crc8_eq_bitSerial (bs : List Byte) : crc8 bs = bs.foldl (fun c b => crcStep^[8] (c ^^^ b)) 0x00 := by
  have hupdate : crcUpdate = fun c b => crcStep^[8] (c ^^^ b) := by
    funext c b
    exact crcTable_eq_iterate _
  rw [crc8, hupdate]
  rfl

theorem crc8_singleton (b : Byte) : crc8 [b] = crcTable b := by
  rw [← List.nil_append [b], crc8_append_singleton]
  exact congrArg crcTable BitVec.zero_xor

/-- Settles O11: the table's entries and the fold. -/
theorem checksumLaws : Obligations.ChecksumLaws :=
  ⟨crcTable_eq_iterate, length_printedTable, getElem?_printedTable, rfl, crc8_append_singleton, crc8_eq_bitSerial,
    crc8_singleton, crc8_replicate_zero, fun _ _ => List.foldl_append, crc8_residue⟩

/-! ### Sequences of commands at the port -/

theorem commandBytes_cons (i : Instr) (is : List Instr) : commandBytes (i :: is) = encode i ++ commandBytes is := rfl

theorem commandBytes_append (is js : List Instr) : commandBytes (is ++ js) = commandBytes is ++ commandBytes js :=
  List.flatMap_append

theorem coreRun_add_of_next {M : Host.Core} {s t : M.State} {m : Nat} (h : M.run m s = .next t) (n : Nat) :
    M.run (m + n) s = M.run n t := by
  induction m generalizing s with
  | zero => cases h; rw [Nat.zero_add]
  | succ m ih =>
    rw [Nat.succ_add]
    rw [Host.Core.run] at h ⊢
    cases hstep : M.step s with
    | next u => rw [hstep] at h; exact ih h
    | fault f => rw [hstep] at h; cases h
    | refused f => rw [hstep] at h; cases h

theorem runSteps_add_of_next {s t : State} {m : Nat} (h : runSteps m s = .next t) (n : Nat) :
    runSteps (m + n) s = runSteps n t :=
  coreRun_add_of_next (M := core) h n

/-- The first command at the port takes one step. -/
theorem runSteps_succ_of_exec {s t : State} {i : Instr} {rest : List Byte} (hi : i.isCommand = true)
    (hrun : s.run = none) (hinp : s.inp = encode i ++ rest) (ht : exec i { s with inp := rest } = .next t) (n : Nat) :
    runSteps (n + 1) s = runSteps n t :=
  runSteps_succ_of_step ((stepExecutesDecodedCommand s i rest hrun hi hinp).trans ht) n

/-- Commands of one form at the port, one for each element of a list: what holds at the start, and passes from one
command to the next, holds at the end. `P done` speaks of the state after the elements `done`, and not of the port. -/
theorem runSteps_map {α : Type} {c : α → Instr} (hc : ∀ a, (c a).isCommand = true) (P : List α → State → Prop)
    (hport : ∀ done s bytes, P done s → P done { s with inp := bytes }) {xs : List α}
    (hstep : ∀ done a rest s, xs = done ++ a :: rest → P done s → ∃ t, exec (c a) s = .next t ∧ P (done ++ [a]) t)
    {s : State} {after : List Byte} (hrun : s.run = none) (hinp : s.inp = commandBytes (xs.map c) ++ after)
    (hstart : P [] s) :
    ∃ t, runSteps xs.length s = .next t ∧ t.run = none ∧ t.inp = after ∧ P xs t := by
  suffices hall : ∀ todo done s, xs = done ++ todo → s.run = none →
      s.inp = commandBytes (todo.map c) ++ after → P done s →
      ∃ t, runSteps todo.length s = .next t ∧ t.run = none ∧ t.inp = after ∧ P xs t from
    hall xs [] s rfl hrun hinp hstart
  intro todo
  induction todo with
  | nil =>
    intro done s hxs hrun hinp hs
    rw [List.append_nil] at hxs
    exact ⟨s, rfl, hrun, hinp, hxs ▸ hs⟩
  | cons a todo ih =>
    intro done s hxs hrun hinp hs
    rw [List.map_cons, commandBytes_cons, List.append_assoc] at hinp
    obtain ⟨t, ht, hPt⟩ := hstep done a todo _ hxs (hport done s (commandBytes (todo.map c) ++ after) hs)
    have hcompleted := exec_completes (isFieldKind_of_isCommand (hc a))
      (s := { s with inp := commandBytes (todo.map c) ++ after }) hrun t ht
    rw [List.length_cons, runSteps_succ_of_exec (hc a) hrun hinp ht]
    exact ih (done ++ [a]) t (by rw [hxs, List.append_assoc]; rfl) hcompleted.run hcompleted.inp hPt

/-- One OK response for each element, and `k` before them. -/
theorem okays_append_singleton {α : Type} (out : List Response) (done : List α) (a : α) (k : Nat) :
    out ++ List.replicate ((done ++ [a]).length + k) okay =
      (out ++ List.replicate (done.length + k) okay) ++ [okay] := by
  rw [List.length_append, List.length_singleton, Nat.add_right_comm, List.replicate_succ', List.append_assoc]

/-! ### The CRC unit -/

/-- The CRC unit has been cleared and has taken the bytes `done`, and nothing else has changed. -/
def CrcFolded (s : State) (done : List Byte) (u : State) : Prop :=
  ∃ bytes, u = { s with crc := crc8 done, inp := bytes, out := s.out ++ List.replicate (done.length + 1) okay }

theorem CrcFolded.withPort {s u : State} {done : List Byte} (h : CrcFolded s done u) (bytes : List Byte) :
    CrcFolded s done { u with inp := bytes } := by
  obtain ⟨_, rfl⟩ := h
  exact ⟨bytes, rfl⟩

theorem CrcFolded.step {s u : State} {done : List Byte} (h : CrcFolded s done u) (b : Byte) :
    ∃ t, exec (.crcUpd b) u = .next t ∧ CrcFolded s (done ++ [b]) t := by
  obtain ⟨bytes, rfl⟩ := h
  refine ⟨_, rfl, bytes, ?_⟩
  rw [crc8_append_singleton, okays_append_singleton]
  rfl

/-- Settles O10: each command's equation, and the loop over the bytes. -/
theorem crcUnitFoldsBytes : Obligations.CrcUnitFoldsBytes := by
  refine ⟨fun _ _ => ⟨rfl, rfl, rfl⟩, fun s bs hrun hinp => ?_⟩
  obtain ⟨t, ht, _, hempty, bytes, rfl⟩ := runSteps_map (c := .crcUpd) (fun _ => rfl) (CrcFolded s)
    (fun _ _ bytes h => h.withPort bytes) (fun _ b _ _ _ h => h.step b) (xs := bs) (after := [])
    (s := State.respond { s with crc := 0x00, inp := commandBytes (bs.map .crcUpd) } .ok .none) hrun
    (List.append_nil _).symm ⟨_, rfl⟩
  obtain rfl : bytes = [] := hempty
  exact (runSteps_succ_of_exec (i := .crcClr) rfl hrun hinp rfl _).trans ht

end Sys2Proof.Machine

/-! Settles O16 and O40: the loading pseudo-instructions and SEND (30_encoding.md section 6). -/

namespace Sys2Proof.Machine

open Sys2Proof.Reference

/-! ### Loading a buffer byte by byte -/

/-- The buffers that a pseudo-instruction loads: PB.LOAD, RX.LOAD and SIG.LOAD. -/
inductive LoadTarget where
  | payload
  | receive
  | signature

namespace LoadTarget

def clear : LoadTarget → Instr
  | .payload => .pbClr
  | .receive => .rxClr
  | .signature => .sigClr

def append : LoadTarget → Byte → Instr
  | .payload => .pbApp
  | .receive => .rxApp
  | .signature => .sigApp

def capacity : LoadTarget → Nat
  | .payload | .receive => 255
  | .signature => 32

/-- The state with the buffer's contents and valid length replaced. -/
def put (s : State) (m : Memory) (n : Nat) : LoadTarget → State
  | .payload => { s with pb := m, plen := BitVec.ofNat 8 n }
  | .receive => { s with rxb := m, rxlen := BitVec.ofNat 8 n }
  | .signature => { s with sig := m, siglen := BitVec.ofNat 6 n }

/-- SIG.LOAD is for an idle engine. -/
def Ready (s : State) : LoadTarget → Prop
  | .payload | .receive => True
  | .signature => s.feState = .idle

variable {target : LoadTarget} {s : State}

theorem put_inp (m : Memory) (n : Nat) (bytes : List Byte) :
    { target.put s m n with inp := bytes } = target.put { s with inp := bytes } m n := by
  cases target <;> rfl

theorem exec_clear (h : target.Ready s) :
    ∃ m, exec target.clear s = .next (target.put { s with out := s.out ++ [okay] } m 0) := by
  cases target with
  | payload => exact ⟨s.pb, rfl⟩
  | receive => exact ⟨s.rxb, rfl⟩
  | signature => exact ⟨s.sig, exec_sigClr_idle h⟩

theorem exec_append (h : target.Ready s) (m : Memory) {n : Nat} (hn : n < target.capacity) (b : Byte) :
    exec (target.append b) (target.put s m n) =
      .next (target.put { s with out := s.out ++ [okay] } (m.write n b) (n + 1)) := by
  cases target with
  | payload =>
    have hlen : (BitVec.ofNat 8 n).toNat = n := toNat_ofNat_byte hn.le
    refine (exec_pbApp_room (hlen.trans_ne hn.ne)).trans ?_
    simp only [put, hlen, BitVec.ofNat_add]
    rfl
  | receive =>
    have hlen : (BitVec.ofNat 8 n).toNat = n := toNat_ofNat_byte hn.le
    refine (exec_rxApp_room (hlen.trans_ne hn.ne)).trans ?_
    simp only [put, hlen, BitVec.ofNat_add]
    rfl
  | signature =>
    have hlen : (BitVec.ofNat 6 n).toNat = n := toNat_ofNat_entry hn.le
    refine (exec_sigApp_room (s := signature.put s m n) h (hlen.trans_lt hn)).trans ?_
    simp only [put, hlen, BitVec.ofNat_add]
    rfl

end LoadTarget

/-- The target has been cleared and has taken the bytes `done`, and nothing else has changed. -/
def Loaded (target : LoadTarget) (s : State) (done : List Byte) (u : State) : Prop :=
  ∃ m bytes, m.slice done.length = done ∧
    u = target.put { s with inp := bytes, out := s.out ++ List.replicate (done.length + 1) okay } m done.length

section
variable {target : LoadTarget} {s u : State} {done : List Byte}

theorem Loaded.withPort (h : Loaded target s done u) (bytes : List Byte) :
    Loaded target s done { u with inp := bytes } := by
  obtain ⟨m, _, hslice, rfl⟩ := h
  exact ⟨m, bytes, hslice, LoadTarget.put_inp ..⟩

theorem Loaded.step (hready : target.Ready s) (h : Loaded target s done u) (hroom : done.length < target.capacity)
    (b : Byte) : ∃ t, exec (target.append b) u = .next t ∧ Loaded target s (done ++ [b]) t := by
  obtain ⟨m, bytes, hslice, rfl⟩ := h
  have hready' : target.Ready { s with
      inp := bytes, out := s.out ++ List.replicate (done.length + 1) okay } := by cases target <;> exact hready
  refine ⟨_, LoadTarget.exec_append hready' m hroom b, m.write done.length b, bytes, ?_, ?_⟩
  · rw [List.length_append, List.length_singleton, Memory.slice_write_end, hslice]
  · rw [okays_append_singleton, List.length_append, List.length_singleton]

end

theorem length_lt_of_eq_append_cons {α : Type} {xs done rest : List α} {a : α} (h : xs = done ++ a :: rest) :
    done.length < xs.length := by
  rw [h, List.length_append, List.length_cons]
  omega

/-- The clearing command and one appending command for each byte leave exactly these bytes. -/
theorem runSteps_load {target : LoadTarget} {s : State} {bs : List Byte} (hrun : s.run = none)
    (hready : target.Ready s) (hfits : bs.length ≤ target.capacity)
    (hinp : s.inp = commandBytes (target.clear :: bs.map target.append)) :
    ∃ m, m.slice bs.length = bs ∧ runSteps (bs.length + 1) s =
      .next (target.put { s with inp := [], out := s.out ++ List.replicate (bs.length + 1) okay } m bs.length) := by
  have hclear : target.clear.isCommand = true := by cases target <;> rfl
  have happend : ∀ b, (target.append b).isCommand = true := fun b => by cases target <;> rfl
  have hready' : target.Ready { s with inp := commandBytes (bs.map target.append) } := by
    cases target <;> exact hready
  obtain ⟨m₀, hfirst⟩ := LoadTarget.exec_clear hready'
  have hstart : Loaded target s [] (target.put { s with
      inp := commandBytes (bs.map target.append), out := s.out ++ [okay] } m₀ 0) := ⟨m₀, _, rfl, rfl⟩
  obtain ⟨t, ht, _, hempty, m, bytes, hslice, rfl⟩ := runSteps_map happend (Loaded target s)
    (fun _ _ bytes h => h.withPort bytes)
    (fun _ b _ _ hxs h => h.step hready ((length_lt_of_eq_append_cons hxs).trans_le hfits) b) (xs := bs) (after := [])
    (by cases target <;> exact hrun) (by cases target <;> exact (List.append_nil _).symm) hstart
  obtain rfl : bytes = [] := by cases target <;> exact hempty
  exact ⟨m, hslice, (runSteps_succ_of_exec hclear hrun hinp hfirst _).trans ht⟩

/-- Settles O40: the loading loop, for each of the three buffers. -/
theorem loadingLeavesTheListedBytes : Obligations.LoadingLeavesTheListedBytes := by
  intro s bs hrun
  refine ⟨fun hfits hinp => ?pb, fun hfits hinp => ?rx, fun hidle hfits hinp => ?sig⟩
  case pb =>
    obtain ⟨m, hslice, ht⟩ := runSteps_load (target := .payload) hrun trivial hfits hinp
    refine ⟨_, ht, ?_, rfl⟩
    exact (congrArg m.slice (toNat_ofNat_byte hfits)).trans hslice
  case rx =>
    obtain ⟨m, hslice, ht⟩ := runSteps_load (target := .receive) hrun trivial hfits hinp
    refine ⟨_, ht, ?_, rfl⟩
    exact (congrArg m.slice (toNat_ofNat_byte hfits)).trans hslice
  case sig =>
    obtain ⟨m, hslice, ht⟩ := runSteps_load (target := .signature) hrun hidle hfits hinp
    refine ⟨_, ht, ?_, rfl⟩
    exact (congrArg m.slice (toNat_ofNat_entry hfits)).trans hslice

/-! ### SEND -/

/-- A read response (30_encoding.md R86). -/
def byteResponse (b : Byte) : Response := { status := .ok, result := .byte b }

/-- From `s`, the bytes `done` have been popped off the transmit buffer, and nothing else has changed. -/
def Popped (s : State) (done : List Byte) (u : State) : Prop :=
  ∃ bytes, u = { s with txpos := BitVec.ofNat 8 done.length, inp := bytes, out := s.out ++ done.map byteResponse }

theorem Popped.withPort {s u : State} {done : List Byte} (h : Popped s done u) (bytes : List Byte) :
    Popped s done { u with inp := bytes } := by
  obtain ⟨_, rfl⟩ := h
  exact ⟨bytes, rfl⟩

/-- A pop returns the frame's next byte. -/
theorem Popped.step {s u : State} {done rest : List Byte} {b : Byte} (hframe : s.frame = done ++ b :: rest)
    (hcap : s.txlen.toNat ≤ 35) (h : Popped s done u) : ∃ t, exec .txPop u = .next t ∧ Popped s (done ++ [b]) t := by
  obtain ⟨bytes, rfl⟩ := h
  have hlt : done.length < s.frame.length := length_lt_of_eq_append_cons hframe
  have hread : s.txb.read done.length = b := by
    rw [← Memory.getElem_slice s.txb s.txlen.toNat done.length hlt]
    exact (List.getElem_of_eq hframe hlt).trans (by simp)
  rw [State.frame, Memory.length_slice] at hlt
  have hpos : (BitVec.ofNat 8 done.length).toNat = done.length := toNat_ofNat_byte (by omega)
  have hne : BitVec.ofNat 8 done.length ≠ s.txlen := fun heq => hlt.ne (hpos.symm.trans (congrArg BitVec.toNat heq))
  refine ⟨_, exec_txPop_byte hne (by rw [hpos]; omega), bytes, ?_⟩
  simp only [hpos, hread, List.length_append, List.length_singleton, BitVec.ofNat_add, List.map_append,
    ← List.append_assoc]
  rfl

/-- The state in which the whole frame has been popped, and the bytes `after` are left at the port. -/
def drained (s : State) (after : List Byte) : State :=
  { s with txpos := s.txlen, inp := after, out := s.out ++ s.frame.map byteResponse }

/-- Popping as many bytes as the transmit buffer holds gives its frame in order. -/
theorem runSteps_drain {s : State} (hrun : s.run = none) (hpos : s.txpos = 0) (hcap : s.txlen.toNat ≤ 35)
    {after : List Byte} (hinp : s.inp = commandBytes (txDrain s.txlen.toNat) ++ after) :
    runSteps s.txlen.toNat s = .next (drained s after) := by
  have hlen : s.frame.length = s.txlen.toNat := s.txb.length_slice _
  have hzero : s = { s with txpos := 0 } := by rw [← hpos]
  have hstart : Popped s [] s := ⟨s.inp, by rw [List.map_nil, List.append_nil]; exact hzero⟩
  have hport : s.inp = commandBytes (s.frame.map fun _ => .txPop) ++ after := by
    rw [hinp, List.map_const', hlen]
    rfl
  obtain ⟨t, ht, _, hafter, bytes, rfl⟩ := runSteps_map (c := fun _ : Byte => .txPop) (fun _ => rfl) (Popped s)
    (fun _ _ bytes h => h.withPort bytes) (fun _ _ _ _ hxs h => h.step hxs hcap) hrun hport hstart
  obtain rfl : bytes = after := hafter
  rw [hlen] at ht
  rw [ht, drained, BitVec.ofNat_toNat, BitVec.setWidth_eq]

/-- Settles O16: ENC.FRAME leaves the frame in TXB, the loop pops it, and TXPOS has then reached TXLEN. -/
theorem sendPopsTheEncodedFrame : Obligations.SendPopsTheEncodedFrame := by
  intro s hrun hidle hfits hinp
  obtain ⟨u, hu, hframe, _, hlen, heq⟩ :=
    (encodeFrame { s with inp := commandBytes (txDrain (s.plen.toNat + 3) ++ [.txPop]) }).2.2 hidle hfits
  have hinp' : u.inp = commandBytes (txDrain u.txlen.toNat) ++ encode .txPop := by
    rw [hlen, heq, commandBytes_append]
    rfl
  have hrun' : u.run = none := by rw [heq]; exact hrun
  have hdrain : runSteps (s.plen.toNat + 3) u = .next (drained u (encode .txPop)) :=
    hlen ▸ runSteps_drain hrun' (by rw [heq]) (hlen.trans_le (Nat.add_le_add_right hfits 3)) hinp'
  refine ⟨(drained u []).respond .txEmpty .none, ?steps, ?out, ?frame⟩
  case steps =>
    calc runSteps (s.plen.toNat + 3 + 1 + 1) s
      _ = runSteps (s.plen.toNat + 3 + 1) u := runSteps_succ_of_exec (i := .encFrame) rfl hrun hinp hu _
      _ = runSteps 1 (drained u (encode .txPop)) := runSteps_add_of_next hdrain 1
      _ = .next ((drained u []).respond .txEmpty .none) :=
        runSteps_succ_of_exec (s := drained u (encode .txPop)) (i := .txPop) rfl hrun' rfl
          (exec_txPop_empty (s := drained u []) rfl) 0
  case out =>
    rw [State.respond_out, drained, hframe, heq]
    simp only [List.append_assoc]
    rfl
  case frame => rw [heq]; rfl

end Sys2Proof.Machine

/-! Settles O23 and O24: frames fed to the decoder (42_frame_decoder.md section 4). -/

namespace Sys2Proof.Machine

open Sys2Proof.Reference

/-- From `s` in WAIT_HEADER, the start byte, the length of `p` and the payload bytes `done` have been fed. -/
def PayloadFed (s : State) (p done : List Byte) (u : State) : Prop :=
  ∃ m bytes, m.slice done.length = done ∧ u = { s with
    dstate := if done.length = p.length then .waitCrc else .waitData
    dexp := BitVec.ofNat 8 p.length
    dcnt := BitVec.ofNat 8 done.length
    dcrc := crc8 done
    db := m
    inp := bytes
    out := s.out ++ List.replicate (done.length + 2) okay }

section
variable {s u : State} {p done : List Byte}

theorem PayloadFed.withPort (h : PayloadFed s p done u) (bytes : List Byte) :
    PayloadFed s p done { u with inp := bytes } := by
  obtain ⟨m, _, hslice, rfl⟩ := h
  exact ⟨m, bytes, hslice, rfl⟩

/-- A payload byte is stored at DCNT, and the last one takes the decoder to WAIT_CRC. -/
theorem PayloadFed.step (hp : p.length ≤ 32) (h : PayloadFed s p done u) (hroom : done.length < p.length) (b : Byte) :
    ∃ t, exec (.decFeed b) u = .next t ∧ PayloadFed s p (done ++ [b]) t := by
  obtain ⟨m, bytes, hslice, rfl⟩ := h
  have hcnt : (BitVec.ofNat 8 done.length).toNat = done.length := toNat_ofNat_byte (by omega)
  have hlen : (done ++ [b]).length = done.length + 1 := by rw [List.length_append, List.length_singleton]
  have hlast : BitVec.ofNat 8 done.length + 1 = BitVec.ofNat 8 p.length ↔ (done ++ [b]).length = p.length := by
    rw [← BitVec.toNat_inj, toNat_add_one (by omega), hcnt, toNat_ofNat_byte (by omega), hlen]
  refine ⟨_, exec_decFeed_data (if_neg hroom.ne) (by rw [hcnt]; omega), m.write done.length b, bytes, ?_, ?_⟩
  · rw [hlen, Memory.slice_write_end, hslice]
  · simp only [hcnt, hlast, okays_append_singleton, crc8_append_singleton]
    simp only [hlen, BitVec.ofNat_add]
    rfl

end

/-- The state in which the start byte has been accepted, and the bytes `after` are left at the port. -/
def startFed (s : State) (after : List Byte) : State :=
  { s with dstate := .waitLength, inp := after, out := s.out ++ [okay] }

/-- The state in which the length `n` has been accepted too. -/
def lengthFed (s : State) (n : Byte) (after : List Byte) : State :=
  { s with
    dstate := if n = 0 then .waitCrc else .waitData, dexp := n, dcnt := 0, dcrc := 0x00
    inp := after, out := s.out ++ [okay] ++ [okay] }

/-- The state in which the payload `p` has been accepted too, and DB is `m`. -/
def payloadFed (s : State) (p : List Byte) (m : Memory) (after : List Byte) : State :=
  { s with
    dstate := .waitCrc, dexp := BitVec.ofNat 8 p.length, dcnt := BitVec.ofNat 8 p.length, dcrc := crc8 p, db := m
    inp := after, out := s.out ++ List.replicate (p.length + 2) okay }

/-- The state in which the checksum of `p` has been accepted too. -/
def readyFed (s : State) (p : List Byte) (m : Memory) (after : List Byte) : State :=
  { payloadFed s p m after with dstate := .ready, out := (payloadFed s p m after).out ++ [okay] }

theorem decFeeds_append (xs ys : List Byte) : decFeeds (xs ++ ys) = decFeeds xs ++ decFeeds ys :=
  List.map_append

section
variable {s : State} {p after : List Byte}

theorem runSteps_feedStart (hrun : s.run = none) (hd : s.dstate = .waitHeader)
    (hinp : s.inp = encode (.decFeed 0xD5) ++ after) (n : Nat) : runSteps (n + 1) s = runSteps n (startFed s after) :=
  runSteps_succ_of_exec (i := .decFeed 0xD5) rfl hrun hinp (exec_decFeed_start hd rfl) n

theorem runSteps_feedLength {b : Byte} (hrun : s.run = none) (hb : b.toNat ≤ 32) (n : Nat) :
    runSteps (n + 1) (startFed s (encode (.decFeed b) ++ after)) = runSteps n (lengthFed s b after) :=
  runSteps_succ_of_exec (s := startFed s (encode (.decFeed b) ++ after)) (i := .decFeed b) rfl hrun rfl
    (exec_decFeed_length (s := startFed s after) rfl hb) n

/-- From WAIT_HEADER, a header and its payload are accepted byte by byte. -/
theorem runSteps_feedPayload (hrun : s.run = none) (hd : s.dstate = .waitHeader) (hp : p.length ≤ 32)
    (hinp : s.inp = commandBytes (decFeeds ([0xD5, BitVec.ofNat 8 p.length] ++ p)) ++ after) :
    ∃ m, m.slice p.length = p ∧ runSteps (p.length + 2) s = .next (payloadFed s p m after) := by
  have hlen : (BitVec.ofNat 8 p.length).toNat = p.length := toNat_ofNat_byte (by omega)
  have hempty : BitVec.ofNat 8 p.length = 0 ↔ ([] : List Byte).length = p.length := by
    rw [← BitVec.toNat_inj, hlen]
    exact eq_comm
  have hstart : PayloadFed s p []
      (lengthFed s (BitVec.ofNat 8 p.length) (commandBytes (p.map .decFeed) ++ after)) := by
    refine ⟨s.db, commandBytes (p.map .decFeed) ++ after, rfl, ?_⟩
    simp only [lengthFed, hempty, List.append_assoc]
    rfl
  obtain ⟨t, ht, _, hafter, m, bytes, hslice, rfl⟩ := runSteps_map (c := .decFeed) (fun _ => rfl) (PayloadFed s p)
    (fun _ _ bytes h => h.withPort bytes) (fun _ b _ _ hxs h => h.step hp (length_lt_of_eq_append_cons hxs) b)
    (s := lengthFed s (BitVec.ofNat 8 p.length) (commandBytes (p.map .decFeed) ++ after)) hrun rfl hstart
  obtain rfl : bytes = after := hafter
  rw [if_pos rfl] at ht
  exact ⟨m, hslice, (runSteps_feedStart hrun hd hinp _).trans
    ((runSteps_feedLength hrun (hlen.trans_le hp) _).trans ht)⟩

theorem runSteps_feedChecksum {m : Memory} (hrun : s.run = none) (n : Nat) :
    runSteps (n + 1) (payloadFed s p m (encode (.decFeed (crc8 p)) ++ after)) = runSteps n (readyFed s p m after) :=
  runSteps_succ_of_exec (s := payloadFed s p m (encode (.decFeed (crc8 p)) ++ after)) (i := .decFeed (crc8 p)) rfl hrun
    rfl (exec_decFeed_goodCrc (s := payloadFed s p m after) rfl rfl) n

/-- Settles O24: the byte after the payload is compared with its checksum; a length is checked at once. -/
theorem decoderFailsFast : Obligations.DecoderFailsFast := by
  intro s hrun hd
  refine ⟨fun p c hp hc hinp => ?checksum, fun n hn hinp => ?length⟩
  case checksum =>
    rw [decFeeds_append, commandBytes_append] at hinp
    obtain ⟨m, _, hfed⟩ := runSteps_feedPayload hrun hd hp hinp
    exact ⟨_, (runSteps_add_of_next hfed 1).trans (runSteps_succ_of_exec (s := payloadFed s p m (encode (.decFeed c)))
      (i := .decFeed c) rfl hrun rfl (exec_decFeed_badCrc (s := payloadFed s p m []) rfl hc) 0), rfl, rfl, rfl⟩
  case length =>
    exact ⟨_, (runSteps_feedStart hrun hd hinp 1).trans (runSteps_succ_of_exec (s := startFed s (encode (.decFeed n)))
      (i := .decFeed n) rfl hrun rfl (exec_decFeed_tooLong (s := startFed s []) rfl hn) 0), rfl, rfl,
      List.append_assoc _ _ _⟩

/-- Settles O23: header, payload and checksum are accepted, and DEC.TAKE copies the DEXP bytes of DB. -/
theorem frameRoundTrip : Obligations.FrameRoundTrip := by
  intro s p hrun hd herr hp hinp
  have hframe : frameOf p = [0xD5, BitVec.ofNat 8 p.length] ++ p ++ [crc8 p] := rfl
  rw [hframe, decFeeds_append, List.append_assoc, commandBytes_append] at hinp
  obtain ⟨m, hslice, hfed⟩ := runSteps_feedPayload hrun hd hp hinp
  have hlen : (BitVec.ofNat 8 p.length).toNat = p.length := toNat_ofNat_byte (by omega)
  refine ⟨_, (runSteps_add_of_next hfed 2).trans ((runSteps_feedChecksum hrun 1).trans
    (runSteps_succ_of_exec (s := readyFed s p m (encode .decTake)) (i := .decTake) rfl hrun rfl
      (exec_decTake_ready (s := readyFed s p m []) rfl (hlen.trans_le hp)) 0)), ?received, ?out, ?rest⟩
  case received =>
    change ((s.rxb.writeList 0 (m.slice (BitVec.ofNat 8 p.length).toNat)).slice (BitVec.ofNat 8 p.length).toNat) = p
    rw [hlen, hslice, Memory.slice_writeList_zero]
  case out =>
    change s.out ++ List.replicate (p.length + 2) okay ++ [okay] ++ [okay] = _
    simp only [List.replicate_add, List.append_assoc]
    rfl
  case rest =>
    have hs : s = { s with dstate := .waitHeader, derr := .none } := by rw [← hd, ← herr]
    conv_rhs => rw [hs]
    rfl

end

end Sys2Proof.Machine

/-! Settles O37: the round trip of the field codec (43_field_engine.md R208). -/

namespace Sys2Proof.Machine

open Sys2Proof.Reference

/-! ### One field -/

/-- With LAST_U8 at `last`, the field `v` of kind `k` packs to `bytes` and leaves LAST_U8 at `last'`, and unpacking
these bytes, wherever they stand, gives `v` back with the same LAST_U8. -/
structure FieldReadsBack (k : Byte) (v : Value) (last : Byte) (bytes : List Byte) (last' : Byte) : Prop where
  width : bytes.length = fieldWidth k v
  packs : packField k v last = .ok (bytes, last')
  unpacks : ∀ pre post,
    unpackField k (pre ++ (bytes ++ post)) pre.length last = .ok (v, pre.length + bytes.length, last')

theorem littleEndian_lowHalf (w : Word) : littleEndian (leBytes2 w) = w.toNat % 2 ^ 16 := by
  simp only [leBytes2, littleEndian, toNat_wordByte]
  omega

/-- A word in the range of a 16-bit number is the sign extension of its low half. -/
theorem toInt_eq_of_lowHalf {w : Word} (hlow : -(2 ^ 15) ≤ w.toInt) (hhigh : w.toInt < 2 ^ 15) :
    (if w.toNat % 2 ^ 16 < 2 ^ 15 then ((w.toNat % 2 ^ 16 : Nat) : Int)
     else ((w.toNat % 2 ^ 16 : Nat) : Int) - 2 ^ 16) = w.toInt := by
  rw [BitVec.toInt_eq_toNat_cond] at *
  omega

/-- A word below 2^8 is the zero extension of its low byte. -/
theorem zext8_lowByte {w : Word} (hw : w.toNat < 2 ^ 8) : zext8 (w.extractLsb' 0 8) = w := by
  simp only [← BitVec.toNat_inj, zext8, BitVec.toNat_setWidth, BitVec.extractLsb'_toNat, Nat.shiftRight_zero]
  omega

section
variable {α : Type} {xs pre post : List α} {n : Nat}

/-- Bytes between others are within the buffer, and are what the cursor before them reads. -/
theorem not_short_of_between (h : xs.length = n) : ¬ (pre ++ (xs ++ post)).length < pre.length + n := by
  simp only [List.length_append]
  omega

theorem take_drop_between (h : xs.length = n) : ((pre ++ (xs ++ post)).drop pre.length).take n = xs := by
  rw [List.drop_left, List.take_left' h]

end

section
variable {k : Byte} {w : Word} {bs : List Byte} {last : Byte}

theorem fieldReadsBack_u8 (hk : k.toNat = 0) (hw : w.toNat < 2 ^ 8) :
    FieldReadsBack k (.word w) last [w.extractLsb' 0 8] (w.extractLsb' 0 8) where
  width := by simp only [fieldWidth, hk, List.length_singleton]
  packs := by simp only [packField, hk]
  unpacks pre post := by
    have hlen : [w.extractLsb' 0 8].length = 1 := rfl
    simp only [unpackField, hk, if_neg (not_short_of_between hlen), take_drop_between hlen, hlen,
      ofNat_littleEndian_single, ← zext8_eq_littleEndian, zext8_lowByte hw]

theorem fieldReadsBack_i16 (hk : k.toNat = 1) (hlow : -(2 ^ 15) ≤ w.toInt) (hhigh : w.toInt < 2 ^ 15) :
    FieldReadsBack k (.word w) last (leBytes2 w) last where
  width := by simp only [fieldWidth, hk]; rfl
  packs := by simp only [packField, hk]; rfl
  unpacks pre post := by
    have hlen : (leBytes2 w).length = 2 := rfl
    simp only [unpackField, hk, if_neg (not_short_of_between hlen), take_drop_between hlen, hlen, littleEndian_lowHalf,
      toInt_eq_of_lowHalf hlow hhigh, BitVec.ofInt_toInt]

theorem fieldReadsBack_u16 (hk : k.toNat = 2) (hw : w.toNat < 2 ^ 16) :
    FieldReadsBack k (.word w) last (leBytes2 w) last where
  width := by simp only [fieldWidth, hk]; rfl
  packs := by simp only [packField, hk]; rfl
  unpacks pre post := by
    have hlen : (leBytes2 w).length = 2 := rfl
    simp only [unpackField, hk, if_neg (not_short_of_between hlen), take_drop_between hlen, hlen, littleEndian_lowHalf,
      Nat.mod_eq_of_lt hw, BitVec.ofNat_toNat, BitVec.setWidth_eq]

theorem fieldReadsBack_word (hk : k.toNat = 3 ∨ k.toNat = 4 ∨ k.toNat = 5) :
    FieldReadsBack k (.word w) last (leBytes4 w) last where
  width := by rcases hk with hk | hk | hk <;> simp only [fieldWidth, hk] <;> rfl
  packs := by rw [← packWord_eq_packField hk]; rfl
  unpacks pre post := by
    have hlen : (leBytes4 w).length = 4 := rfl
    have hword : BitVec.ofNat 32 (littleEndian (leBytes4 w)) = w :=
      (leWord_eq_littleEndian _ _ _ _).symm.trans (leWord_wordBytes w)
    rcases hk with hk | hk | hk <;>
      simp only [unpackField, hk, if_neg (not_short_of_between hlen), take_drop_between hlen, hlen, hword]

theorem findIdx?_terminator_append (hbs : 0x00 ∉ bs) (post : List Byte) :
    ((bs ++ [0x00]) ++ post).findIdx? (· == 0x00) = some bs.length := by
  have hnone : bs.findIdx? (· == 0x00) = none :=
    List.findIdx?_eq_none_iff.mpr fun b hb => beq_eq_false_iff_ne.mpr (ne_of_mem_of_not_mem hb hbs)
  rw [List.append_assoc, List.findIdx?_append, hnone]
  simp [List.findIdx?_cons]

theorem fieldReadsBack_cstr (hk : k.toNat = 6) (hbs : 0x00 ∉ bs) :
    FieldReadsBack k (.bytes bs) last (bs ++ [0x00]) last where
  width := by simp only [fieldWidth, hk, List.length_append, List.length_singleton]
  packs := by simp only [packField, hk]
  unpacks pre post := by
    simp only [unpackField, hk, List.drop_left, findIdx?_terminator_append hbs]
    simp only [List.append_assoc, List.take_left, List.length_append, List.length_singleton, Nat.add_assoc]

theorem fieldReadsBack_blob (hk : k.toNat = 7) (hlen : bs.length = last.toNat) :
    FieldReadsBack k (.bytes bs) last bs last where
  width := by simp only [fieldWidth, hk]
  packs := by simp only [packField, hk, if_pos hlen]
  unpacks pre post := by
    simp only [unpackField, hk, if_neg (not_short_of_between hlen), take_drop_between hlen, hlen]

/-- Every value that its kind represents reads back, a BLOB when its length is in LAST_U8. -/
theorem exists_fieldReadsBack {v : Value} (hm : Matches k v)
    (hblob : k = 0x07 → ∀ bs, v = .bytes bs → bs.length = last.toNat) :
    ∃ bytes last', FieldReadsBack k v last bytes last' := by
  unfold Matches at hm
  split at hm
  case h_1 w hk => exact ⟨_, _, fieldReadsBack_u8 hk hm⟩
  case h_2 w hk =>
    obtain ⟨hlow, hhigh⟩ := hm
    exact ⟨_, _, fieldReadsBack_i16 hk hlow hhigh⟩
  case h_3 w hk => exact ⟨_, _, fieldReadsBack_u16 hk hm⟩
  case h_4 w hk => exact ⟨_, _, fieldReadsBack_word (.inl hk)⟩
  case h_5 w hk => exact ⟨_, _, fieldReadsBack_word (.inr (.inl hk))⟩
  case h_6 w hk => exact ⟨_, _, fieldReadsBack_word (.inr (.inr hk))⟩
  case h_7 bs hk => exact ⟨_, _, fieldReadsBack_cstr hk hm⟩
  case h_8 bs hk => exact ⟨_, _, fieldReadsBack_blob hk (hblob (BitVec.eq_of_toNat_eq hk) bs rfl)⟩
  case h_9 => exact hm.elim

/-- A U8 field leaves its value in LAST_U8. -/
theorem FieldReadsBack.last_eq_value {bytes : List Byte} {last' : Byte}
    (h : FieldReadsBack 0x00 (.word w) last bytes last') (hm : Matches 0x00 (.word w)) : last'.toNat = w.toNat := by
  have hw : w.toNat < 2 ^ 8 := hm
  cases h.packs
  rw [BitVec.extractLsb'_toNat, Nat.shiftRight_zero, Nat.mod_eq_of_lt hw]

end

/-! ### The fields of a signature -/

/-- With LAST_U8 at `last`, the loop of PACK packs `fields` to `bytes` and leaves LAST_U8 at `last'`, and the loop of
UNPACK, over these bytes wherever they stand, gives the values back with the same LAST_U8. -/
structure FieldsReadBack (fields : List (Byte × Value)) (last : Byte) (bytes : List Byte) (last' : Byte) : Prop where
  width : bytes.length = (fields.map fun f => fieldWidth f.1 f.2).sum
  packs : ∀ plen i out, plen + out.length + bytes.length ≤ 255 →
    packLoop plen fields i out last = .ok (out ++ bytes, last')
  unpacks : ∀ pre post i res, unpackLoop (pre ++ (bytes ++ post)) (fields.map Prod.fst) i pre.length last res =
    .ok (res ++ fields.map Prod.snd, pre.length + bytes.length, last')

theorem FieldsReadBack.nil (last : Byte) : FieldsReadBack [] last [] last where
  width := rfl
  packs _ _ out _ := by rw [List.append_nil]; rfl
  unpacks _ _ _ res := by rw [List.map_nil, List.map_nil, List.append_nil]; rfl

theorem FieldsReadBack.cons {k : Byte} {v : Value} {fields : List (Byte × Value)} {last last' last'' : Byte}
    {bytes rest : List Byte} (hfield : FieldReadsBack k v last bytes last')
    (hfields : FieldsReadBack fields last' rest last'') :
    FieldsReadBack ((k, v) :: fields) last (bytes ++ rest) last'' where
  width := by rw [List.length_append, hfield.width, hfields.width]; rfl
  packs plen i out hroom := by
    rw [List.length_append] at hroom
    have hfits : ¬ 255 < plen + out.length + bytes.length := by omega
    have hpacks := hfields.packs plen (i + 1) (out ++ bytes) (by rw [List.length_append]; omega)
    simp only [packLoop, hfield.packs, if_neg hfits, hpacks, List.append_assoc]
  unpacks pre post i res := by
    have hunpacks := hfields.unpacks (pre ++ bytes) post (i + 1) (res ++ [v])
    rw [List.append_assoc, List.length_append] at hunpacks
    simp only [List.map_cons, unpackLoop, List.append_assoc, hfield.unpacks, hunpacks, List.length_append,
      Nat.add_assoc]
    rfl

/-- Every BLOB among `fields` is of the length that LAST_U8 will hold: the first of them of the length `last`, and every
later one of the value of the U8 before it. -/
structure BlobLengthsFollow (last : Byte) (fields : List (Byte × Value)) : Prop where
  first : ∀ bs rest, fields = (0x07, .bytes bs) :: rest → bs.length = last.toNat
  later : BlobLengthsFit fields
  afterU8 : ∀ i, (fields[i + 1]?).map Prod.fst = some 0x07 → (fields[i]?).map Prod.fst = some 0x00

theorem BlobLengthsFollow.tail {last last' k : Byte} {v : Value} {fields : List (Byte × Value)}
    {bytes : List Byte} (h : BlobLengthsFollow last ((k, v) :: fields)) (hm : Matches k v)
    (hfield : FieldReadsBack k v last bytes last') : BlobLengthsFollow last' fields where
  first bs rest hfields := by
    subst hfields
    obtain ⟨w, bs', hw, hbs', hlen⟩ := h.later 0 rfl
    obtain rfl : k = 0x00 := Option.some.inj (h.afterU8 0 rfl)
    obtain rfl : v = .word w := Option.some.inj hw
    cases hbs'
    exact hlen.trans (hfield.last_eq_value hm).symm
  later i hi := h.later (i + 1) hi
  afterU8 i hi := h.afterU8 (i + 1) hi

theorem exists_fieldsReadBack {fields : List (Byte × Value)} {last : Byte} (hm : ∀ f ∈ fields, Matches f.1 f.2)
    (hblobs : BlobLengthsFollow last fields) : ∃ bytes last', FieldsReadBack fields last bytes last' := by
  induction fields generalizing last with
  | nil => exact ⟨[], last, .nil last⟩
  | cons f fields ih =>
    obtain ⟨k, v⟩ := f
    have hmatch : Matches k v := hm _ List.mem_cons_self
    obtain ⟨bytes, last', hfield⟩ := exists_fieldReadsBack (last := last) hmatch
      (by rintro rfl bs rfl; exact hblobs.first bs fields rfl)
    obtain ⟨rest, last'', hfields⟩ := ih (fun f hf => hm f (List.mem_cons_of_mem _ hf)) (hblobs.tail hmatch hfield)
    exact ⟨bytes ++ rest, last'', .cons hfield hfields⟩

/-! ### The round trip -/

/-- In a signature that validation passes, a BLOB entry follows a U8 entry. -/
theorem u8_before_blob {s : State} (hv : firstFailure s = none) {i : Nat} (hi : s.signature[i]? = some 0x07) :
    i ≠ 0 ∧ s.signature[i - 1]? = some 0x00 := by
  obtain ⟨hlt, hread⟩ := getElem?_signature_eq_some hi
  have hentry : entryFailure s i = none := firstFailure_eq_none_iff.mp hv i hlt
  have hbefore : ¬ (i = 0 ∨ s.sig.read (i - 1) ≠ 0x00) := fun hwrong => by
    rw [entryFailure, hread, if_neg (by decide), if_pos ⟨rfl, hwrong⟩] at hentry
    cases hentry
  obtain ⟨hne, hu8⟩ := not_or.mp hbefore
  refine ⟨hne, List.getElem?_eq_some_iff.mpr ⟨by rw [s.length_signature]; omega, ?_⟩⟩
  exact (Memory.getElem_slice _ _ _ _).trans (not_not.mp hu8)

theorem blobLengthsFollow_of_valid {s : State} (hv : firstFailure s = none) {fields : List (Byte × Value)}
    (hkinds : fields.map Prod.fst = s.signature) (hlengths : BlobLengthsFit fields) (last : Byte) :
    BlobLengthsFollow last fields where
  first bs rest hfields := by
    obtain ⟨hne, _⟩ := u8_before_blob hv (i := 0) (by rw [← hkinds, hfields]; rfl)
    exact absurd rfl hne
  later := hlengths
  afterU8 i hi := by
    rw [← List.getElem?_map, hkinds] at *
    exact (u8_before_blob hv hi).2

/-- Settles O37: PACK's loop and UNPACK's loop over the same fields. -/
theorem fieldRoundTrip : Obligations.FieldRoundTrip := by
  intro s r hidle hcap hv hcount hplen hm hlengths hwidth
  have hkinds : (s.signature.zip s.vqi).map Prod.fst = s.signature :=
    List.map_fst_zip (by rw [s.length_signature, hcount])
  have hvalues : (s.signature.zip s.vqi).map Prod.snd = s.vqi :=
    List.map_snd_zip (by rw [s.length_signature, hcount])
  obtain ⟨bytes, last, hfields⟩ := exists_fieldsReadBack hm (blobLengthsFollow_of_valid hv hkinds hlengths 0x00)
  have hpack : packFields s = .ok (bytes, last) :=
    hfields.packs s.plen.toNat 0 [] (by rw [hfields.width, hplen]; simpa using hwidth)
  obtain ⟨t, ht, hpayload, _, _, _, _, hcommitted⟩ := packCommitsEveryField s bytes last hidle hcap hv hcount hpack
  refine ⟨t, ht, by rw [hcommitted], fun hidle' hsiglen hsignature hreceived => ?unpack⟩
  case unpack =>
    have hbytes : r.received = bytes := by
      rw [hreceived, hpayload, State.payload, hplen]
      rfl
    have hunpack : unpackFields r = .ok (s.vqi, bytes.length, last) := by
      have hloop := hfields.unpacks [] [] 0 []
      rw [hkinds, hvalues, List.append_nil] at hloop
      rw [unpackFields, hsignature, hbytes]
      simpa using hloop
    have hv' : firstFailure r = none := by rw [← validate_signature, hsignature, validate_signature, hv]
    obtain ⟨u, hu, _, _, hcursor, hcommitted'⟩ :=
      unpackCommitsEveryField r s.vqi bytes.length last hidle' (hsiglen ▸ hcap) hv' hunpack
    refine ⟨u, hu, by rw [hcommitted'], by rw [hcommitted'], BitVec.eq_of_toNat_eq ?_⟩
    rw [hcursor, ← hbytes, r.length_received]

end Sys2Proof.Machine
